-- ==== Sys2Proof/Word.lean ====
section
/-! DEFINITION. The byte of the links and highways. -/

namespace Sys2Proof

/-- A byte has 8 bits (00_scope, Conventions, Sizes). -/
abbrev Byte := BitVec 8

end Sys2Proof
end

