-- ==== Sys2Proof/Syntax.lean ====
section
/-! DEFINITION. The commands of the part: one constructor of `Instr` for each row of spec/opcode_table.json. -/

namespace Sys2Proof

/-- The two link ports (Chapter 3). -/
inductive Port where
  | a
  | b
deriving DecidableEq, Repr

/-- The two kinds of job (Chapter 5). -/
inductive JobKind where
  | decode
  | encode
deriving DecidableEq, Repr

/-- Names a job issued at the present tick: at most one of each kind per context (R76, R132). -/
structure JobRef where
  context : Nat
  kind : JobKind
deriving DecidableEq, Repr

/-- What one highway's pins show over the frame interval that a tick ends (R23, R26): how many periods of its
bit clock passed since the start of the previous tick's frame, the bit periods (counted from that start) at
which frame pulses arrived, and the 512 bits of the tick's receive frame on HWn_RX, first bit most significant. -/
structure HighwayInput where
  span : Nat
  pulses : List Nat
  frame : BitVec 512
deriving DecidableEq, Repr

/-- The strap levels sampled at the end of a reset (R156): true is high. -/
structure Straps where
  mgsel : BitVec 3
  chainEnd : Bool
  hwyRole : Bool
deriving DecidableEq, Repr

/-- What the pins show at the moment a reset ends: the strap levels (R156), and at which ports a unit is in the middle of
arriving, having begun before that moment (R43). -/
structure ResetPins where
  straps : Straps
  arrivingA : Bool
  arrivingB : Bool
deriving DecidableEq, Repr

/-- What a tick takes from the highways. `late` leaves the flag events of its highway transitions for a later
DEVICE_CYCLE_BOUNDARY (R176 lets the composition of the same tick come first; log 3). -/
structure TickInput where
  highways : Vector HighwayInput 4
  late : Bool
deriving DecidableEq, Repr

/-- The two fields of a CONTROL unit that its RESPONSE copies: the tag and the sequence (R161, R167). -/
structure Envelope where
  tag : Byte
  seq : Byte
deriving DecidableEq, Repr

/-- The commands and events the part takes.

The rows of the command catalogue (IDENTIFY to TRACE_READ) carry the envelope and the argument bytes of a CONTROL
unit whose list holds that one command; a list of several commands is a `unitArrival` at port A. -/
inductive Instr where
  /-- POWER_UP (R155): supply is applied. -/
  | powerUp
  /-- PIN_RESET (R155): RESET_N goes low. -/
  | pinReset
  /-- RESET_END (R155, R156): the reset ends and the straps are sampled. -/
  | resetEnd (pins : ResetPins)
  /-- TICK (R30): one highway frame interval passes on the four highways. -/
  | tick (input : TickInput)
  /-- DEVICE_CYCLE_BOUNDARY (R32), or, where the tick owes none, the flag events a `late` TICK left. -/
  | deviceCycleBoundary
  /-- CONTEXT_BOUNDARY (R33) of one context, and with it the boundaries that fall together with it of the other contexts in
  `order`. `order` lists, in order, jobs that these boundaries issue (R96 leaves the order of the issues of one tick open);
  the jobs it does not name follow. -/
  | contextBoundary (context : Nat) (order : List JobRef)
  /-- UNIT_ARRIVAL (R43): a unit's bytes, whole. -/
  | unitArrival (port : Port) (bytes : List Byte)
  /-- IDENTIFY (R159). -/
  | identify (env : Envelope) (args : List Byte)
  /-- SET STATE (R154). -/
  | setState (env : Envelope) (args : List Byte)
  /-- HOLD (R152). -/
  | hold (env : Envelope) (args : List Byte)
  /-- RELEASE (R152). -/
  | release (env : Envelope) (args : List Byte)
  /-- RESTART (R157). -/
  | restart (env : Envelope) (args : List Byte)
  /-- OPEN (R7). -/
  | openCall (env : Envelope) (args : List Byte)
  /-- MODIFY (R13). -/
  | modify (env : Envelope) (args : List Byte)
  /-- CLOSE (R14). -/
  | close (env : Envelope) (args : List Byte)
  /-- CONTEXT REPORT (R179). -/
  | contextReport (env : Envelope) (args : List Byte)
  /-- WRITE TABLE (R169). -/
  | writeTable (env : Envelope) (args : List Byte)
  /-- WRITE NEXT (R169). -/
  | writeNext (env : Envelope) (args : List Byte)
  /-- READ TABLE (R171). -/
  | readTable (env : Envelope) (args : List Byte)
  /-- READ NEXT (R171). -/
  | readNext (env : Envelope) (args : List Byte)
  /-- READ STATUS (R177). -/
  | readStatus (env : Envelope) (args : List Byte)
  /-- CLEAR FLAGS (R178). -/
  | clearFlags (env : Envelope) (args : List Byte)
  /-- SET NOTICE MASK (R178). -/
  | setNoticeMask (env : Envelope) (args : List Byte)
  /-- TRACE ARM (R180). -/
  | traceArm (env : Envelope) (args : List Byte)
  /-- TRACE READ (R182). -/
  | traceRead (env : Envelope) (args : List Byte)
  /-- PEER_HOLD_ASSERTED (R57). -/
  | peerHoldAsserted (port : Port)
  /-- PEER_HOLD_RELEASED (R57). -/
  | peerHoldReleased (port : Port)
  /-- TRANSMISSION_COMPLETE (R61). -/
  | transmissionComplete (port : Port)
  /-- RESTART_DEADLINE (R157). -/
  | restartDeadline
  /-- DECODE_COMPLETION (R104). -/
  | decodeCompletion
  /-- ENCODE_COMPLETION (R105). -/
  | encodeCompletion
  /-- VOID_RUN_END (R100). -/
  | voidRunEnd
deriving DecidableEq, Repr

end Sys2Proof
end

