-- ==== Sys2Proof/Config.lean ====
section
/-! DEFINITION. The fixed sizes of the part. The manual fixes every one of them, and it leaves no value
open after which the part goes on, so there is no free value here (NOTES.md, Scope). -/

namespace Sys2Proof.Config

/-- Contexts 0..191 (00_scope, at a glance; R1). -/
abbrev contexts : Nat := 192

/-- Ticks of a device cycle, and samples of a frame (R32, R119). -/
abbrev cycleTicks : Nat := 160

/-- One nominal highway frame in bit periods (R23, R26). -/
abbrev frameBits : Nat := 512

/-- Contexts that may share one phase (R4). -/
abbrev phaseShare : Nat := 8

/-- Units a pass-through queue holds (R53). -/
abbrev passQueue : Nat := 64

/-- Units the originated queue holds, and the SPEECH or SILENCE units among them (R54, R55). -/
abbrev originatedQueue : Nat := 64
abbrev originatedSpeech : Nat := 60

/-- Jobs the engine's queue holds (R95). -/
abbrev jobQueue : Nat := 32

/-- Top of every counter of the Status Unit (R64, R91, R107). -/
abbrev counterTop : Nat := 65535

/-- Health entries of one NOTICE (R176). -/
abbrev noticeEntries : Nat := 48

/-- Bytes of a RESPONSE payload a command may fill, its room for a TRUNCATED record kept free (R164). -/
abbrev responseRoom : Nat := 251

/-- Empty boundaries after which SILENT ends (R85). -/
abbrev silentLimit : Nat := 32

/-- Silent cycles before suppression (R137) and suppressed cycles per SILENCE unit (R138). -/
abbrev hangover : Nat := 4
abbrev refresh : Nat := 24

/-- Samples of one TRACE READ (R182). -/
abbrev traceChunk : Nat := 48

end Sys2Proof.Config
end

