-- ==== Sys2Proof/Machine/ResetValues.lean ====
section
/-! DEFINITION. The reset contents of the tables (Chapters 6 and 8). -/

namespace Sys2Proof.Machine

/-- Step[i] after reset (R118). -/
def resetStep (i : Nat) : Nat :=
  (4 + i % 4) * 2 ^ (i / 4)

/-- The Step Table after reset (R118). -/
def resetStepTable : Vector Nat 48 :=
  Vector.ofFn fun i => resetStep i.val

/-- The Gain Table after reset (R116). -/
def resetGainTable : Vector Nat 32 :=
  Vector.replicate 32 4096

/-- Fade[1]..Fade[6] after reset, at indices 0..5 (R117). -/
def resetFadeTable : Vector Nat 6 :=
  #v[4096, 3072, 2048, 1024, 512, 256]

/-- The Settings Table after reset (R151). Entry 0 follows the HWY_ROLE strap: high gives MASTER (0), low SLAVE (1). -/
def resetSettings (straps : Straps) : Vector Nat 8 :=
  #v[if straps.hwyRole then 0 else 1, 0, 4, 3, 3, 4, 3, 4]

/-- The levels of the strap pins that `State.reset` takes to have been sampled: all low.
DESIGN CHOICE (log 1): the manual fixes no strap level. -/
def resetStraps : Straps :=
  { mgsel := 0, chainEnd := false, hwyRole := false }

end Sys2Proof.Machine
end

