-- ==== Sys2Proof/Machine/State.lean ====
section
/-! DEFINITION. The state of the part, block by block, and the machine right after reset. Plain data throughout. -/

namespace Sys2Proof.Machine

/-! ## Names of fixed sets -/

/-- Device states (R153). -/
inductive DeviceState where
  | reset
  | standby
  | operating
deriving DecidableEq, Repr

/-- Companding laws (Chapter 6). -/
inductive Law where
  | e
  | b
deriving DecidableEq, Repr

/-- Context states (R1). -/
inductive ContextState where
  | free
  | opened
  | closing
deriving DecidableEq, Repr

/-- Speech modes (R119): the code width in bits. -/
inductive Mode where
  | two
  | three
  | four
deriving DecidableEq, Repr

/-- Playout states (4.3). -/
inductive PlayoutState where
  | priming
  | playing
  | silent
deriving DecidableEq, Repr

/-- Stream health (R87). -/
inductive Health where
  | absent
  | present
deriving DecidableEq, Repr

/-- Suppression states (7.3). -/
inductive Suppression where
  | speaking
  | suppressing
deriving DecidableEq, Repr

/-- What times the tick (R30). -/
inductive TickSource where
  | internal
  | referencePulse
deriving DecidableEq, Repr

/-- The unit kinds (11.1). -/
inductive UnitKind where
  | speech
  | silence
  | control
  | response
  | notice
deriving DecidableEq, Repr

/-- Port A's two egress queues, as last-served names them (R59). -/
inductive Side where
  | originated
  | passThrough
deriving DecidableEq, Repr

/-- The five tables the table commands reach (9.4). -/
inductive TableId where
  | step
  | gain
  | fade
  | window
  | settings
deriving DecidableEq, Repr

/-- Trace points (R180). -/
inductive TracePoint where
  | uplink
  | downlink
deriving DecidableEq, Repr

/-! ## Context Table (Chapter 1) -/

/-- An allowed-mode set: which of the modes 2, 3 and 4 are members. -/
structure ModeSet where
  two : Bool
  three : Bool
  four : Bool
deriving DecidableEq, Repr

/-- The binding (1.2), fixed at OPEN. -/
structure Binding where
  highway : Fin 4
  timeslot : Fin 64
  phase : Nat
  law : Law
  label : BitVec 16
  depth : Nat
deriving DecidableEq, Repr

/-- The applied settings (1.3). An uplink preference of 0 is `none`. -/
structure Applied where
  allowed : ModeSet
  target : Mode
  mode : Mode
  preference : Option Mode
  uplinkGain : Fin 32
  downlinkGain : Fin 32
  followRequests : Bool
  suppression : Bool
  threshold : Nat
deriving DecidableEq, Repr

/-- The pending record (R6): eight optional parts. -/
structure PendingRecord where
  allowed : Option ModeSet
  target : Option Mode
  preference : Option (Option Mode)
  uplinkGain : Option (Fin 32)
  downlinkGain : Option (Fin 32)
  followRequests : Option Bool
  suppression : Option Bool
  threshold : Option Nat
deriving DecidableEq, Repr

/-- Every part absent (R6). -/
def PendingRecord.empty : PendingRecord :=
  { allowed := none, target := none, preference := none, uplinkGain := none, downlinkGain := none,
    followRequests := none, suppression := none, threshold := none }

/-! ## Playout Unit (Chapter 4) -/

/-- One compressed code: its sign bit and its magnitude (R119). -/
structure Code where
  neg : Bool
  mag : Nat
deriving DecidableEq, Repr

/-- The speech of one frame (R67): mode, four step indices, 160 codes. -/
structure Frame where
  mode : Mode
  steps : List (Fin 48)
  codes : List Code
deriving DecidableEq, Repr

/-- What an entry records beside its sequence (R67). -/
inductive EntryBody where
  | speech (frame : Frame)
  | silence
  | damaged
deriving DecidableEq, Repr

/-- A playout queue entry (R67). -/
structure Entry where
  seq : Byte
  body : EntryBody
deriving DecidableEq, Repr

/-- The health record of a context (R87). -/
structure HealthRecord where
  health : Health
  goodRun : Nat
  lostRun : Nat
deriving DecidableEq, Repr

/-- The playout record of a context (Chapter 4, opening table). -/
structure Playout where
  queue : List Entry
  nextSeq : Byte
  anchored : Bool
  state : PlayoutState
  primingCount : Nat
  lossCount : Nat
  lastGood : Option Frame
  silentGap : Nat
  health : HealthRecord
  lastQuality : BitVec 4
  minQuality : BitVec 4
deriving DecidableEq, Repr

/-- The playout record after reset and after OPEN (Chapter 4, opening table; R10). -/
def Playout.start : Playout :=
  { queue := [], nextSeq := 0, anchored := false, state := .priming, primingCount := 0, lossCount := 0,
    lastGood := none, silentGap := 0,
    health := { health := .absent, goodRun := 0, lostRun := 0 },
    lastQuality := 15, minQuality := 15 }

/-! ## Codec state (Chapters 5 and 7) -/

/-- The downlink half of the codec state. -/
structure EncoderState where
  predictor : Int
  suppression : Suppression
  silenceRun : Nat
  refresh : Nat
  seq : Byte
deriving DecidableEq, Repr

/-- The codec state record of a context. -/
structure Codec where
  decoder : Int
  encoder : EncoderState
deriving DecidableEq, Repr

/-- The codec state after reset and after OPEN (R10, R92). -/
def Codec.start : Codec :=
  { decoder := 0,
    encoder := { predictor := 0, suppression := .speaking, silenceRun := 0, refresh := 0, seq := 0 } }

/-! ## Highway Port buffers (2.5) -/

/-- Names one of the two collection buffers of a context. -/
inductive Bank where
  | first
  | second
deriving DecidableEq, Repr

/-- The four buffers of a context, each 160 codes while the context is bound and empty while it is not. `bank` names
the collecting one of the two collection buffers; the other is the handed-over one. -/
structure Buffers where
  playing : List Byte
  next : List Byte
  filled : Bool
  firstBank : List Byte
  secondBank : List Byte
  bank : Bank
deriving DecidableEq, Repr

/-- No buffer is in use (R37). DESIGN CHOICE (log 2): buffers out of use are empty lists, and the collecting one is the first. -/
def Buffers.unused : Buffers :=
  { playing := [], next := [], filled := false, firstBank := [], secondBank := [], bank := .first }

/-! ## Per-context counters (R91, R107) -/

/-- The eleven counters of a context, in the order of R179. -/
structure ContextCounters where
  good : Nat
  damaged : Nat
  lost : Nat
  late : Nat
  duplicate : Nat
  resync : Nat
  resyncDropped : Nat
  engineLate : Nat
  clip : Nat
  unitsSent : Nat
  suppressed : Nat
deriving DecidableEq, Repr

/-- All eleven at 0 (R10, R173 opening table). -/
def ContextCounters.zero : ContextCounters :=
  { good := 0, damaged := 0, lost := 0, late := 0, duplicate := 0, resync := 0, resyncDropped := 0,
    engineLate := 0, clip := 0, unitsSent := 0, suppressed := 0 }

/-! ## One context, all its blocks together -/

/-- Everything the part keeps under one context number. `boundaryDue` is the model's own: the tick has brought the device
frame counter to the phase and the boundary of that tick has not been taken yet (log 3). `driven` is the code driven in
the context's timeslot at the present tick, `none` while nothing is driven (R35, R36). -/
structure Channel where
  state : ContextState
  generation : Byte
  binding : Option Binding
  applied : Applied
  waiting : PendingRecord
  firstBoundary : Bool
  boundaryDue : Bool
  playout : Playout
  codec : Codec
  buffers : Buffers
  driven : Option Byte
  counters : ContextCounters
deriving DecidableEq, Repr

/-- The applied settings that reset leaves. DESIGN CHOICE (log 2): R1 gives them no value and no block reads them. -/
def Applied.atReset : Applied :=
  { allowed := { two := true, three := false, four := false }, target := .two, mode := .two, preference := none,
    uplinkGain := 0, downlinkGain := 0, followRequests := false, suppression := false, threshold := 0 }

/-- A context after reset (R1, R37, R65, R92). -/
def Channel.atReset : Channel :=
  { state := .free, generation := 0, binding := none, applied := Applied.atReset, waiting := PendingRecord.empty,
    firstBoundary := false, boundaryDue := false, playout := Playout.start, codec := Codec.start,
    buffers := Buffers.unused, driven := none, counters := ContextCounters.zero }

/-! ## Highway Port (Chapter 2) -/

/-- One highway: its supervision (R26 to R29) and the 512 bits of the present tick's receive frame (R23). `lastPulse` is the
previous-pulse record: how many bit periods before the start of the present tick's frame the last pulse arrived. -/
structure Highway where
  locked : Bool
  goodCount : Nat
  badCount : Nat
  lastPulse : Option Nat
  received : BitVec 512
deriving DecidableEq, Repr

/-- A highway after reset (R29). DESIGN CHOICE (log 2): before the first tick the receive frame is 512 zeros. -/
def Highway.atReset : Highway :=
  { locked := false, goodCount := 0, badCount := 0, lastPulse := none, received := 0 }

/-- Highway transitions of the present tick whose flag events have not been taken (R28, R173). The model's own: a TICK
sent as `late` leaves them for a later moment of the tick (log 3). -/
structure Transitions where
  gained : Bool
  lost : Bool
  holdover : Bool
deriving DecidableEq, Repr

/-- No flag event is left to take. -/
def Transitions.none : Transitions :=
  { gained := false, lost := false, holdover := false }

/-- The Highway Port's device-wide state. `cycleDue` is the model's own: the frame counter has wrapped and the device
cycle boundary of that tick has not been taken yet (log 3). `drivesClocks`: HWn_CLK and HWn_FP are driven (R24). -/
structure HighwayPort where
  highways : Vector Highway 4
  tickSource : TickSource
  frameCounter : Nat
  cycleCounter : Byte
  cycleDue : Bool
  transitions : Transitions
  drivesClocks : Bool
deriving DecidableEq, Repr

/-! ## Link ports and Label Window Table (Chapter 3) -/

/-- A unit waiting in the originated queue (R54). `restarts` marks the RESPONSE a RESTART is pending on (R157). -/
structure QueuedUnit where
  bytes : List Byte
  kind : UnitKind
  stamp : Byte
  restarts : Bool
deriving DecidableEq, Repr

/-- A unit being sent, the queue it came from, and the mark it carried there. -/
structure Sending where
  bytes : List Byte
  origin : Side
  restarts : Bool
deriving DecidableEq, Repr

/-- The reception of a port (R43). `none`: no unit is arriving, or one whose beginning the port saw, which has no effect
until it ends. `abandoned`: a unit is arriving that began before the last reset ended, so its end is no arrival. -/
inductive Reception where
  | none
  | abandoned
deriving DecidableEq, Repr

/-- One link port: its reception, the unit being sent (the port is free when none), and the peer's hold. -/
structure LinkPort where
  reception : Reception
  sending : Option Sending
  hold : Bool
deriving DecidableEq, Repr

/-- Both ports, the three egress queues (oldest first) and port A's last-served. -/
structure Links where
  portA : LinkPort
  portB : LinkPort
  aToB : List (List Byte)
  bToA : List (List Byte)
  originated : List QueuedUnit
  lastServed : Side
deriving DecidableEq, Repr

/-- One label window (3.3). -/
structure Window where
  valid : Bool
  base : BitVec 16
  limit : BitVec 16
  first : Nat
deriving DecidableEq, Repr

/-- A window after reset (R51). -/
def Window.atReset : Window :=
  { valid := false, base := 0, limit := 0, first := 0 }

/-! ## Tables (Chapters 3, 6 and 8) -/

/-- The five writable tables. -/
structure Tables where
  step : Vector Nat 48
  gain : Vector Nat 32
  fade : Vector Nat 6
  window : Vector Window 32
  settings : Vector Nat 8
deriving DecidableEq, Repr

/-! ## Transcoding Engine (Chapter 5) -/

/-- What an ENCODE job captures beside the fields common to both kinds (R93). -/
structure EncodeWork where
  bank : Bank
  mode : Mode
  suppression : Bool
  threshold : Nat
  preference : Option Mode
  label : BitVec 16
deriving DecidableEq, Repr

/-- The source of a job (R77, R93). -/
inductive Work where
  | frame (f : Frame)
  | conceal (k : Nat) (f : Frame)
  | zero
  | encode (w : EncodeWork)
deriving DecidableEq, Repr

/-- A job record (R93). -/
structure Job where
  context : Nat
  generation : Byte
  work : Work
  law : Law
  gain : Fin 32
  void : Bool
deriving DecidableEq, Repr

/-- The current job with what it read at the start of its run (R98). -/
structure Run where
  job : Job
  codec : Codec
  gain : Nat
  fade : Nat
  step : Vector Nat 48
  collected : List Byte
deriving DecidableEq, Repr

/-- The engine: the jobs that wait, oldest first, and the one that runs (R92). -/
structure Engine where
  queue : List Job
  current : Option Run
deriving DecidableEq, Repr

/-! ## Status Unit and Trace Unit (Chapter 10) -/

/-- The twelve device counters, in the order of R177. -/
structure DeviceCounters where
  checkFailuresA : Nat
  checkFailuresB : Nat
  unclaimed : Nat
  badKind : Nat
  malformed : Nat
  closedContext : Nat
  aToBDrops : Nat
  bToADrops : Nat
  originatedDrops : Nat
  stale : Nat
  responsesLost : Nat
  originatedSent : Nat
deriving DecidableEq, Repr

/-- All twelve at 0 (R64, R177). -/
def DeviceCounters.zero : DeviceCounters :=
  { checkFailuresA := 0, checkFailuresB := 0, unclaimed := 0, badKind := 0, malformed := 0, closedContext := 0,
    aToBDrops := 0, bToADrops := 0, originatedDrops := 0, stale := 0, responsesLost := 0, originatedSent := 0 }

/-- The Status Unit. Bit n of `flags` is flag n, set when 1 (R173); bit n of `mask` masks flag n when 1 (R174, R185).
`healthChanged` is the health-change list in ascending order (R175). -/
structure Status where
  flags : Byte
  mask : Byte
  noticeWanted : Bool
  healthChanged : List Nat
  counters : DeviceCounters
deriving DecidableEq, Repr

/-- What an arming records (R180). -/
structure Arming where
  context : Nat
  point : TracePoint
  generation : Byte
deriving DecidableEq, Repr

/-- The trace record (10.5): the aborted indication exists in IDLE alone, samples in FILLED alone. -/
inductive Trace where
  | idle (last : Option Arming) (aborted : Bool)
  | armed (arming : Arming)
  | filled (arming : Arming) (samples : List Int)
deriving DecidableEq, Repr

/-! ## Management Unit (Chapters 8 and 9) -/

/-- The table cursor (R168). -/
structure Cursor where
  table : TableId
  index : Nat
deriving DecidableEq, Repr

/-- The Management Unit: device state, strap record, the RESPONSE a RESTART is pending on (R157), table cursor, and the
level of RESET_N (true is high). -/
structure Management where
  device : DeviceState
  straps : Straps
  restart : Option (List Byte)
  cursor : Cursor
  resetN : Bool
deriving DecidableEq, Repr

/-! ## The whole part -/

/-- The part. `pending` is the queue of commands that wait, first in, first out. -/
structure State where
  management : Management
  highway : HighwayPort
  links : Links
  tables : Tables
  stagingHold : Bool
  channels : Vector Channel 192
  engine : Engine
  status : Status
  trace : Trace
  pending : List Instr
deriving DecidableEq, Repr

/-- Why a step can stop with a fault: never. No constructor, because no rule of the manual stops the part; a command
the present state has no place for changes nothing (log 5). Safe. -/
inductive Fault where
deriving DecidableEq, Repr

/-- Why a step can refuse a command. -/
inductive Refusal where
  /-- Raised by `exec` alone, for a command whose meaning is not written. Safe: the model stops. No arm uses it. -/
  | notModelled (mnemonic : String)
deriving DecidableEq, Repr

/-! ## Reset -/

/-- A port after reset: nothing sent, a unit in the middle of arriving abandoned (R43); the hold follows the pin (Chapter 3,
opening table). -/
def LinkPort.atReset (hold arriving : Bool) : LinkPort :=
  { reception := if arriving then .abandoned else .none, sending := none, hold := hold }

/-- Every block at its reset value, the straps sampled as given, the peer hold pins at the given levels and units in the
middle of arriving as given (R155, R156, R43). DESIGN CHOICE (log 2): R180 says that a reset makes the trace IDLE, without
samples and not aborted; that it also forgets the context, point and generation of the last arming is the model's. -/
def State.afterReset (pins : ResetPins) (holdA holdB : Bool) (waiting : List Instr) : State :=
  { management :=
      { device := .standby, straps := pins.straps, restart := none, cursor := { table := .step, index := 0 }, resetN := true },
    highway :=
      { highways := Vector.replicate 4 Highway.atReset, tickSource := .internal, frameCounter := 0, cycleCounter := 0,
        cycleDue := false, transitions := .none, drivesClocks := pins.straps.hwyRole },
    links :=
      { portA := LinkPort.atReset holdA pins.arrivingA, portB := LinkPort.atReset holdB pins.arrivingB, aToB := [],
        bToA := [], originated := [], lastServed := .passThrough },
    tables :=
      { step := resetStepTable, gain := resetGainTable, fade := resetFadeTable,
        window := Vector.replicate 32 Window.atReset, settings := resetSettings pins.straps },
    stagingHold := false,
    channels := Vector.replicate 192 Channel.atReset,
    engine := { queue := [], current := none },
    status :=
      { flags := 0, mask := 0xFF, noticeWanted := false, healthChanged := [], counters := DeviceCounters.zero },
    trace := .idle none false,
    pending := waiting }

/-- The part right after a reset with every strap low, neither peer holding and no unit in the middle of arriving
(log 1). -/
def State.reset : State :=
  State.afterReset { straps := resetStraps, arrivingA := false, arrivingB := false } false false []

end Sys2Proof.Machine
end

