-- ==== Sys2Proof/Machine/Flags.lean ====
section
/-! DEFINITION. The eight sticky flags, the notice mask, the health-change list and the saturating counters (10.1). -/

namespace Sys2Proof.Machine

/-- The eight flags (R173). -/
inductive Flag where
  | hwyLoss
  | hwyGain
  | holdover
  | streamLoss
  | streamGain
  | engineLate
  | egressDrop
  | traceDone
deriving DecidableEq, Repr

/-- The flag's number, which is its bit (R173). -/
def Flag.bit : Flag → Nat
  | .hwyLoss => 0
  | .hwyGain => 1
  | .holdover => 2
  | .streamLoss => 3
  | .streamGain => 4
  | .engineLate => 5
  | .egressDrop => 6
  | .traceDone => 7

/-- The byte with the flag's bit alone. -/
def Flag.toByte (f : Flag) : Byte :=
  1 <<< f.bit

/-- A flag event: the flag is set, and notice-wanted with it when the flag was clear and is unmasked (R173, R174). -/
def Status.raise (st : Status) (f : Flag) : Status :=
  if st.flags.getLsbD f.bit then st
  else
    { st with
      flags := st.flags ||| f.toByte,
      noticeWanted := st.noticeWanted || !st.mask.getLsbD f.bit }

/-- A flag event if `happens` holds, else nothing. -/
def Status.raiseIf (st : Status) (happens : Bool) (f : Flag) : Status :=
  if happens then st.raise f else st

/-- CLEAR FLAGS' effect: every flag whose bit is 1 is cleared (R178). -/
def Status.clear (st : Status) (selected : Byte) : Status :=
  { st with flags := st.flags &&& ~~~selected }

/-- The flags that are set and unmasked (R174, R176). -/
def Status.reported (st : Status) : Byte :=
  st.flags &&& ~~~st.mask

/-- A number put in its place in an ascending list without duplicates. -/
def insertNumber (n : Nat) : List Nat → List Nat
  | [] => [n]
  | m :: ms => if n < m then n :: m :: ms else if n = m then m :: ms else m :: insertNumber n ms

/-- A context joins the health-change list (R175). -/
def Status.addHealthChange (st : Status) (n : Nat) : Status :=
  { st with healthChanged := insertNumber n st.healthChanged }

/-- A counter of the Status Unit: an addition that would pass 65535 leaves 65535 (R64, R91, R107). -/
def countUp (counter more : Nat) : Nat :=
  min Config.counterTop (counter + more)

end Sys2Proof.Machine
end

