-- ==== Sys2Proof/Machine/Ops.lean ====
section
/-! DEFINITION. Reading and writing the state: contexts, settings, counters, mode sets, the reference highway. -/

namespace Sys2Proof.Machine

/-! ## Contexts -/

/-- The record of context `n`; a number above 191 names no context and reads as a context after reset. -/
def State.channel (s : State) (n : Nat) : Channel :=
  s.channels[n]?.getD Channel.atReset

/-- Write the record of context `n`; a number above 191 names no context and writes nothing. -/
def State.setChannel (s : State) (n : Nat) (c : Channel) : State :=
  { s with channels := s.channels.setIfInBounds n c }

/-- Change the record of context `n`. -/
def State.updateChannel (s : State) (n : Nat) (f : Channel → Channel) : State :=
  s.setChannel n (f (s.channel n))

/-- Apply `f` to each element of a vector. -/
def mapVector {α β : Type} {n : Nat} (f : α → β) (v : Vector α n) : Vector β n :=
  ⟨(v.toArray.toList.map f).toArray, by simp⟩

/-- Every context is FREE (R153, R154). -/
def State.allFree (s : State) : Bool :=
  s.channels.toArray.toList.all fun c => c.state == .free

/-- How many contexts that are not FREE satisfy `p` (R7, R107's counters aside). -/
def State.countBound (s : State) (p : Binding → Bool) : Nat :=
  s.channels.toArray.toList.countP fun c => c.state != .free && c.binding.any p

/-! ## Flags and device counters -/

/-- A flag event (R173). -/
def State.raise (s : State) (f : Flag) : State :=
  { s with status := s.status.raise f }

/-- Change the device counters. -/
def State.count (s : State) (f : DeviceCounters → DeviceCounters) : State :=
  { s with status := { s.status with counters := f s.status.counters } }

/-- Count `k` jobs of context `n` voided or refused: engine-late rises by `k` and, if `k` is not 0, ENGINE-LATE is set
(R94, R95, R101, R107). -/
def State.countEngineLate (s : State) (n k : Nat) : State :=
  if k = 0 then s
  else
    (s.updateChannel n fun c =>
      { c with counters := { c.counters with engineLate := countUp c.counters.engineLate k } }).raise .engineLate

/-! ## Settings Table readers (R151) -/

/-- Settings entry `i`. -/
def Tables.setting (t : Tables) (i : Nat) : Nat :=
  t.settings[i]?.getD 0

/-- SLAVE role (R24): entry 0 is 1. -/
def Tables.slave (t : Tables) : Bool :=
  t.setting 0 == 1

/-- The reference highway (R24): entry 1, 0..3. -/
def Tables.reference (t : Tables) : Fin 4 :=
  Fin.ofNat 4 (t.setting 1)

/-- N_in and N_out from their codes (R28): 1, 2, 4, ..., 128. -/
def lockFrames (code : Nat) : Nat :=
  2 ^ code

/-- N_good and N_lost from their codes (R88). -/
def healthFrames (code : Nat) : Nat :=
  [1, 2, 3, 5, 10, 20, 50, 100].getD code 100

/-- The reference highway's supervision state. -/
def State.referenceHighway (s : State) : Highway :=
  s.highway.highways[s.tables.reference]

/-- Holdover (R31): SLAVE role and the reference highway UNLOCKED. -/
def State.inHoldover (s : State) : Bool :=
  s.tables.slave && !s.referenceHighway.locked

/-- The management label: 0xFFF0 plus the MGSEL value (R156). -/
def managementLabelOf (straps : Straps) : BitVec 16 :=
  0xFFF0 + straps.mgsel.setWidth 16

/-- The strap value of IDENTIFY (R156): MGSEL, plus 8 for CHAIN_END, plus 16 for HWY_ROLE. -/
def strapValue (straps : Straps) : Nat :=
  straps.mgsel.toNat + 8 * straps.chainEnd.toNat + 16 * straps.hwyRole.toNat

/-- The management label of the part. -/
def State.managementLabel (s : State) : BitVec 16 :=
  managementLabelOf s.management.straps

/-! ## Modes (R19, R119) -/

/-- The code width in bits, which is the mode's number. -/
def Mode.width : Mode → Nat
  | .two => 2
  | .three => 3
  | .four => 4

/-- The mode a number names. -/
def Mode.ofNat? : Nat → Option Mode
  | 2 => some .two
  | 3 => some .three
  | 4 => some .four
  | _ => none

/-- A number brought into 2..4 and read as a mode (R13). -/
def Mode.clamp (n : Nat) : Mode :=
  if n ≤ 2 then .two else if n = 3 then .three else .four

/-- Membership of an allowed-mode set. -/
def ModeSet.has (set : ModeSet) : Mode → Bool
  | .two => set.two
  | .three => set.three
  | .four => set.four

/-- The members, lowest first. -/
def ModeSet.members (set : ModeSet) : List Mode :=
  [Mode.two, Mode.three, Mode.four].filter set.has

/-- A set with a member (R7). -/
def ModeSet.nonempty (set : ModeSet) : Bool :=
  set.two || set.three || set.four

/-- Mode resolution (R19): `m` itself, else the highest member below it, else the lowest member. The set has a member;
for a set without one the answer is mode 2, which no rule reads. -/
def ModeSet.resolve (set : ModeSet) (m : Nat) : Mode :=
  match (set.members.filter fun x => x.width ≤ m).getLast? with
  | some x => x
  | none => set.members.head?.getD .two

/-- One place toward the target (R21). -/
def ModeSet.stepToward (set : ModeSet) (mode target : Mode) : Mode :=
  if mode.width < target.width then
    (set.members.filter fun x => mode.width < x.width).head?.getD mode
  else if target.width < mode.width then
    (set.members.filter fun x => x.width < mode.width).getLast?.getD mode
  else mode

/-- The preference stored for a number (R8, R13): 0 is none, 1 becomes 2, above 4 becomes 4. -/
def preferenceOf (n : Nat) : Option Mode :=
  if n = 0 then none else some (Mode.clamp n)

/-- The number a preference stands for in a request field (R142). -/
def preferenceNumber : Option Mode → Nat
  | none => 0
  | some m => m.width

/-- A gain index: above 31 becomes 31 (R8, R13). -/
def gainIndex (n : Nat) : Fin 32 :=
  Fin.ofNat 32 (min n 31)

/-- A silence threshold: above 32767 becomes 32767 (R8, R13). -/
def clampThreshold (n : Nat) : Nat :=
  min n 32767

/-- A target depth: 0 becomes 1, above 6 becomes 6 (R3). -/
def clampDepth (n : Nat) : Nat :=
  max 1 (min n 6)

/-- A step index: above 47 becomes 47 (R67). -/
def clampStep (n : Nat) : Fin 48 :=
  Fin.ofNat 48 (min n 47)

end Sys2Proof.Machine
end

