-- ==== Sys2Proof/Machine/Egress.lean ====
section
/-! DEFINITION. The egress queues, the port A arbiter and the two ports' selections (3.4 to 3.6). -/

namespace Sys2Proof.Machine

/-- SPEECH and SILENCE units are perishable (R55, R60). -/
def UnitKind.perishable : UnitKind → Bool
  | .speech => true
  | .silence => true
  | .control => false
  | .response => false
  | .notice => false

/-- A unit's age in device cycles (R60). -/
def QueuedUnit.age (u : QueuedUnit) (cycle : Byte) : Nat :=
  (cycle - u.stamp).toNat

/-- A unit the stale discard removes from the head (R60). -/
def QueuedUnit.isStale (u : QueuedUnit) (cycle : Byte) (limit : Nat) : Bool :=
  u.kind.perishable && limit ≤ u.age cycle

/-- The originated queue after the stale discard at its head (R60). -/
def dropStale (cycle : Byte) (limit : Nat) (queue : List QueuedUnit) : List QueuedUnit :=
  queue.dropWhile fun u => u.isStale cycle limit

/-- The arbiter's choice (R59); none when both queues are empty. -/
def Links.choose (l : Links) : Option Side :=
  match l.originated, l.bToA with
  | [], [] => none
  | _ :: _, [] => some .originated
  | [], _ :: _ => some .passThrough
  | _ :: _, _ :: _ => some (match l.lastServed with | .originated => .passThrough | .passThrough => .originated)

/-- Port A begins sending the head of the originated queue (R61). -/
def Links.sendOriginated (l : Links) : Links :=
  match l.originated with
  | [] => l
  | u :: us =>
    { l with
      portA := { l.portA with sending := some { bytes := u.bytes, origin := .originated, restarts := u.restarts } },
      originated := us, lastServed := .originated }

/-- Port A begins sending the head of the B→A queue (R61). -/
def Links.sendPassThrough (l : Links) : Links :=
  match l.bToA with
  | [] => l
  | p :: ps =>
    { l with
      portA := { l.portA with sending := some { bytes := p, origin := .passThrough, restarts := false } },
      bToA := ps, lastServed := .passThrough }

/-- A port may begin a transmission: free, and its peer READY (R57). -/
def LinkPort.ready (p : LinkPort) : Bool :=
  p.sending.isNone && !p.hold

/-- A selection at port A that chose the originated queue: stale discard, then one unit from it, or from the B→A queue if
the discard emptied it (R59, R60). -/
def State.selectOriginated (s : State) : State :=
  let kept := dropStale s.highway.cycleCounter (s.tables.setting 6) s.links.originated
  let dropped := s.links.originated.length - kept.length
  let links := { s.links with originated := kept }
  let status :=
    { s.status with counters := { s.status.counters with stale := countUp s.status.counters.stale dropped } }
  { s with
    links := if kept = [] then links.sendPassThrough else links.sendOriginated,
    status := status.raiseIf (dropped != 0) .egressDrop }

/-- A selection at port A, if the port is free and READY and a queue holds a unit (R58). -/
def State.selectA (s : State) : State :=
  if s.links.portA.ready then
    match s.links.choose with
    | none => s
    | some .originated => s.selectOriginated
    | some .passThrough => { s with links := s.links.sendPassThrough }
  else s

/-- Port B begins sending the head of the A→B queue (R62). -/
def Links.sendB (l : Links) : Links :=
  match l.aToB with
  | [] => l
  | p :: ps =>
    { l with
      portB := { l.portB with sending := some { bytes := p, origin := .passThrough, restarts := false } },
      aToB := ps }

/-- A selection at port B, if the port is free and READY and the A→B queue holds a unit (R62). -/
def State.selectB (s : State) : State :=
  if s.links.portB.ready then { s with links := s.links.sendB } else s

/-- A unit offered to the A→B queue (R53). -/
def State.offerAToB (s : State) (bytes : List Byte) : State :=
  if s.links.aToB.length < Config.passQueue then
    ({ s with links := { s.links with aToB := s.links.aToB ++ [bytes] } } : State).selectB
  else (s.count fun c => { c with aToBDrops := countUp c.aToBDrops 1 }).raise .egressDrop

/-- A unit offered to the B→A queue (R53). -/
def State.offerBToA (s : State) (bytes : List Byte) : State :=
  if s.links.bToA.length < Config.passQueue then
    ({ s with links := { s.links with bToA := s.links.bToA ++ [bytes] } } : State).selectA
  else (s.count fun c => { c with bToADrops := countUp c.bToADrops 1 }).raise .egressDrop

/-- A unit put at the tail of the originated queue with its entry stamp (R54). -/
def State.enterOriginated (s : State) (kind : UnitKind) (bytes : List Byte) (restarts : Bool) : State :=
  { s with
    links :=
      { s.links with
        originated :=
          s.links.originated ++
            [{ bytes := bytes, kind := kind, stamp := s.highway.cycleCounter, restarts := restarts }] } }

/-- SPEECH and SILENCE units waiting in the originated queue (R55). -/
def Links.speechWaiting (l : Links) : Nat :=
  l.originated.countP fun u => u.kind.perishable

/-- A SPEECH or SILENCE unit offered to the originated queue (R55). -/
def State.offerSpeech (s : State) (kind : UnitKind) (bytes : List Byte) : State :=
  if s.links.originated.length < Config.originatedQueue ∧ s.links.speechWaiting < Config.originatedSpeech then
    (s.enterOriginated kind bytes false).selectA
  else (s.count fun c => { c with originatedDrops := countUp c.originatedDrops 1 }).raise .egressDrop

/-- A RESPONSE offered to the originated queue (R56). -/
def State.offerResponse (s : State) (bytes : List Byte) (restarts : Bool) : State :=
  if s.links.originated.length < Config.originatedQueue then
    (s.enterOriginated .response bytes restarts).selectA
  else s.count fun c => { c with responsesLost := countUp c.responsesLost 1 }

/-- A NOTICE offered to the originated queue (R56). -/
def State.offerNotice (s : State) (bytes : List Byte) : State :=
  if s.links.originated.length < Config.originatedQueue then
    (s.enterOriginated .notice bytes false).selectA
  else s

end Sys2Proof.Machine
end

