-- ==== Sys2Proof/Machine/Bytes.lean ====
section
/-! DEFINITION. Bytes, 16-bit fields and bit strings in the order the links use: most significant first
(00_scope, Conventions, Bit and byte order). -/

namespace Sys2Proof.Machine

/-- The byte of a number below 256. -/
def byte (n : Nat) : Byte :=
  BitVec.ofNat 8 n

/-- Two bytes, most significant first, as one 16-bit number. -/
def word16 (hi lo : Byte) : BitVec 16 :=
  hi ++ lo

/-- A 16-bit number as two bytes, most significant first. -/
def bytes16 (w : BitVec 16) : List Byte :=
  [w.extractLsb' 8 8, w.extractLsb' 0 8]

/-- A number below 65536 as two bytes. -/
def natBytes16 (n : Nat) : List Byte :=
  bytes16 (BitVec.ofNat 16 n)

/-- A signed sample as two bytes in two's complement (11, Conventions). -/
def intBytes16 (x : Int) : List Byte :=
  bytes16 (BitVec.ofInt 16 x)

/-- The code of timeslot `t` in a highway frame: bits 8t to 8t+7 counted from the frame pulse, most significant bit first
(R23). The first bit of the frame is the most significant of the 512. -/
def timeslotCode (frame : BitVec 512) (t : Fin 64) : Byte :=
  frame.extractLsb' (504 - 8 * t.val) 8

/-- The upper and the lower half of a byte (11.1). -/
def hiNibble (b : Byte) : BitVec 4 :=
  b.extractLsb' 4 4

def loNibble (b : Byte) : BitVec 4 :=
  b.extractLsb' 0 4

/-- The low `w` bits of `n`, most significant first. -/
def natBits : Nat → Nat → List Bool
  | 0, _ => []
  | w + 1, n => n.testBit w :: natBits w n

/-- The number a run of bits spells, most significant first. -/
def bitsNat (bits : List Bool) : Nat :=
  bits.foldl (fun acc b => 2 * acc + b.toNat) 0

/-- A bit string cut into whole bytes (R184); bits left over after the last whole byte are not sent. -/
def bitsBytes : List Bool → List Byte
  | b7 :: b6 :: b5 :: b4 :: b3 :: b2 :: b1 :: b0 :: rest =>
    byte (bitsNat [b7, b6, b5, b4, b3, b2, b1, b0]) :: bitsBytes rest
  | _ => []

/-- The bits of bytes, in the order they are sent. -/
def bytesBits (bytes : List Byte) : List Bool :=
  bytes.flatMap fun b => natBits 8 b.toNat

/-- `count` pieces of `size` bytes each. -/
def pieces (size : Nat) : Nat → List Byte → List (List Byte)
  | 0, _ => []
  | count + 1, bytes => bytes.take size :: pieces size count (bytes.drop size)

end Sys2Proof.Machine
end

