-- ==== Sys2Proof/Machine/Crc.lean ====
section
/-! DEFINITION. The CRC-8 of headers and speech payloads (6.9). -/

namespace Sys2Proof.Machine

/-- One message bit: shift left, and exclusive-or with 0x07 when the bit shifted out differs from the message bit (R129). -/
def crcBit (reg : Byte) (bit : Bool) : Byte :=
  if reg.msb != bit then (reg <<< 1) ^^^ 0x07 else reg <<< 1

/-- One byte, most significant bit first (R129). -/
def crcByte (reg b : Byte) : Byte :=
  [7, 6, 5, 4, 3, 2, 1, 0].foldl (fun r i => crcBit r (b.getLsbD i)) reg

/-- The CRC-8 of a sequence of bytes: register 0 at the start, no inversion at the end (R129). -/
def crc8 (bytes : List Byte) : Byte :=
  bytes.foldl crcByte 0

end Sys2Proof.Machine
end

