-- ==== Sys2Proof/Machine/Operands.lean ====
section
/-! DEFINITION. The formats of Chapter 11: unit header, speech payload, command arguments, table entries. -/

namespace Sys2Proof.Machine

/-! ## The unit header (R183) -/

/-- The fields of a header. `length` is the payload length field. -/
structure Header where
  label : BitVec 16
  kind : BitVec 4
  mode : BitVec 4
  seq : Byte
  request : BitVec 4
  quality : BitVec 4
  length : Byte
deriving DecidableEq, Repr

/-- Header bytes 0..5. -/
def Header.front (h : Header) : List Byte :=
  bytes16 h.label ++ [h.kind ++ h.mode, h.seq, h.request ++ h.quality, h.length]

/-- A unit as it is sent: the header with its check (R130), then the payload. -/
def Header.unit (h : Header) (payload : List Byte) : List Byte :=
  h.front ++ [crc8 h.front] ++ payload

/-- A unit whose length field says what its payload is. -/
def buildUnit (h : Header) (payload : List Byte) : List Byte :=
  Header.unit { h with length := byte payload.length } payload

/-- An arriving unit taken apart: header, check byte, payload. None for fewer than 7 bytes. -/
def parseUnit : List Byte → Option (Header × Byte × List Byte)
  | b0 :: b1 :: b2 :: b3 :: b4 :: b5 :: b6 :: payload =>
    some
      ({ label := word16 b0 b1, kind := hiNibble b2, mode := loNibble b2, seq := b3, request := hiNibble b4,
         quality := loNibble b4, length := b5 },
       b6, payload)
  | _ => none

/-- The ingress check (R44): byte count 7 plus the length field, and the header check right. -/
def ingress (bytes : List Byte) : Option (Header × List Byte) :=
  match parseUnit bytes with
  | none => none
  | some (h, check, payload) =>
    if payload.length = h.length.toNat ∧ check = crc8 (bytes.take 6) then some (h, payload) else none

/-- Kind codes (11.1). -/
def UnitKind.code : UnitKind → BitVec 4
  | .speech => 1
  | .silence => 2
  | .control => 3
  | .response => 4
  | .notice => 5

/-- The kind a code names: none for 0 and 6..15 (R183). -/
def UnitKind.ofCode? (c : BitVec 4) : Option UnitKind :=
  if c = 1 then some .speech
  else if c = 2 then some .silence
  else if c = 3 then some .control
  else if c = 4 then some .response
  else if c = 5 then some .notice
  else none

/-! ## The speech payload (R184) -/

/-- Payload length of a mode: 44, 64, 84. -/
def Mode.payloadLength (m : Mode) : Nat :=
  4 + 20 * m.width

/-- The bits of one code: the sign, then the magnitude. -/
def Code.bits (width : Nat) (c : Code) : List Bool :=
  c.neg :: natBits (width - 1) c.mag

/-- The step-index bytes and the code bytes. -/
def Frame.body (f : Frame) : List Byte :=
  bitsBytes (f.steps.flatMap (fun i => natBits 6 i.val) ++ f.codes.flatMap (Code.bits f.mode.width))

/-- The whole payload, with its check (R131). -/
def Frame.payload (f : Frame) : List Byte :=
  f.body ++ [crc8 f.body]

/-- `count` step indices read from bits, 48..63 stored as 47 (R67, R184). -/
def readSteps : Nat → List Bool → List (Fin 48)
  | 0, _ => []
  | count + 1, bits => clampStep (bitsNat (bits.take 6)) :: readSteps count (bits.drop 6)

/-- `count` codes of `width` bits. -/
def readCodes (width : Nat) : Nat → List Bool → List Code
  | 0, _ => []
  | count + 1, bits =>
    { neg := bits.headD false, mag := bitsNat ((bits.take width).drop 1) } :: readCodes width count (bits.drop width)

/-- The frame a payload holds, its check not looked at. -/
def unpackFrame (mode : Mode) (payload : List Byte) : Frame :=
  let bits := bytesBits payload.dropLast
  { mode := mode, steps := readSteps 4 (bits.take 24), codes := readCodes mode.width 160 (bits.drop 24) }

/-- The payload check of an arriving SPEECH unit (R131). -/
def payloadCheckRight (payload : List Byte) : Bool :=
  payload.getLast? == some (crc8 payload.dropLast)

/-- Classification of a SPEECH or SILENCE unit (R68). -/
def classify (kind : UnitKind) (h : Header) (payload : List Byte) : EntryBody :=
  match kind with
  | .silence => .silence
  | _ =>
    match Mode.ofNat? h.mode.toNat with
    | none => .damaged
    | some mode =>
      if payload.length = mode.payloadLength ∧ payloadCheckRight payload then .speech (unpackFrame mode payload)
      else .damaged

/-! ## Command arguments (R185) -/

/-- The commands of the catalogue (9.3). -/
inductive Command where
  | identify
  | setState
  | hold
  | release
  | restart
  | openCall
  | modify
  | close
  | contextReport
  | writeTable
  | writeNext
  | readTable
  | readNext
  | readStatus
  | clearFlags
  | setNoticeMask
  | traceArm
  | traceRead
deriving DecidableEq, Repr

/-- Command codes (9.3). -/
def Command.code : Command → Byte
  | .identify => 0x01
  | .setState => 0x02
  | .hold => 0x03
  | .release => 0x04
  | .restart => 0x05
  | .openCall => 0x10
  | .modify => 0x11
  | .close => 0x12
  | .contextReport => 0x13
  | .writeTable => 0x20
  | .writeNext => 0x21
  | .readTable => 0x22
  | .readNext => 0x23
  | .readStatus => 0x30
  | .clearFlags => 0x31
  | .setNoticeMask => 0x32
  | .traceArm => 0x40
  | .traceRead => 0x41

/-- The catalogue in the order of its codes. -/
def Command.all : List Command :=
  [.identify, .setState, .hold, .release, .restart, .openCall, .modify, .close, .contextReport, .writeTable, .writeNext,
   .readTable, .readNext, .readStatus, .clearFlags, .setNoticeMask, .traceArm, .traceRead]

/-- The command a code byte names; none is UNKNOWN-COMMAND (R165). -/
def Command.ofCode? (b : Byte) : Option Command :=
  Command.all.find? fun c => c.code == b

/-- Result codes (R162). -/
inductive Result where
  | ok
  | badState
  | badArgument
  | notInStandby
  | timeslotTaken
  | phaseFull
  | labelMismatch
  | tableEnd
  | malformed
  | unknownCommand
  | truncated
deriving DecidableEq, Repr

/-- Result values (11.4). -/
def Result.code : Result → Byte
  | .ok => 0x00
  | .badState => 0x01
  | .badArgument => 0x02
  | .notInStandby => 0x03
  | .timeslotTaken => 0x04
  | .phaseFull => 0x05
  | .labelMismatch => 0x06
  | .tableEnd => 0x07
  | .malformed => 0x08
  | .unknownCommand => 0x09
  | .truncated => 0x0A

/-- One record of a RESPONSE (R162). -/
def recordBytes (code : Byte) (result : Result) (data : List Byte) : List Byte :=
  [code, result.code, byte data.length] ++ data

/-- An allowed-mode set byte: bits 0..2 mark modes 2..4 (R185). -/
def ModeSet.ofByte (b : Byte) : ModeSet :=
  { two := b.getLsbD 0, three := b.getLsbD 1, four := b.getLsbD 2 }

/-- A law byte (R185). -/
def Law.ofByte? (b : Byte) : Option Law :=
  if b = 0 then some .e else if b = 1 then some .b else none

/-- A trace point byte (R185). -/
def TracePoint.ofByte? (b : Byte) : Option TracePoint :=
  if b = 1 then some .uplink else if b = 2 then some .downlink else none

/-- The byte of a trace point (R186). -/
def TracePoint.toByte : TracePoint → Byte
  | .uplink => 1
  | .downlink => 2

/-- The arguments of OPEN, as sent (R185). -/
structure OpenArgs where
  context : Nat
  highway : Nat
  timeslot : Nat
  phase : Nat
  law : Law
  label : BitVec 16
  depth : Nat
  allowed : ModeSet
  initialMode : Nat
  preference : Nat
  uplinkGain : Nat
  downlinkGain : Nat
  followRequests : Bool
  suppression : Bool
  threshold : Nat
deriving DecidableEq, Repr

/-- OPEN's argument step: 16 bytes and a law byte that names a law (R166, R185). -/
def parseOpen : List Byte → Option OpenArgs
  | [ctx, hw, ts, ph, law, l1, l0, depth, allowed, mode, pref, up, down, options, t1, t0] =>
    (Law.ofByte? law).map fun law =>
      { context := ctx.toNat, highway := hw.toNat, timeslot := ts.toNat, phase := ph.toNat, law := law,
        label := word16 l1 l0, depth := depth.toNat, allowed := ModeSet.ofByte allowed, initialMode := mode.toNat,
        preference := pref.toNat, uplinkGain := up.toNat, downlinkGain := down.toNat,
        followRequests := options.getLsbD 0, suppression := options.getLsbD 1, threshold := (word16 t1 t0).toNat }
  | _ => none

/-- The arguments of MODIFY, its values made legal (R13, R185). -/
structure ModifyArgs where
  context : Nat
  parts : PendingRecord
deriving DecidableEq, Repr

/-- The bytes the presence flags require after themselves (R185). -/
def modifyLength (flags : Byte) : Nat :=
  ((List.range 7).filter fun i => flags.getLsbD i).length + (if flags.getLsbD 7 then 2 else 0)

/-- One present one-byte field of MODIFY taken off the front, or no field where the flag is clear. -/
def takeField (present : Bool) (bytes : List Byte) : Option Byte × List Byte :=
  if present then (bytes.head?, bytes.drop 1) else (none, bytes)

/-- The fields of MODIFY in their fixed order (R185), clamped as R13 states. -/
def modifyParts (flags : Byte) (bytes : List Byte) : PendingRecord :=
  let (allowed, bytes) := takeField (flags.getLsbD 0) bytes
  let (target, bytes) := takeField (flags.getLsbD 1) bytes
  let (preference, bytes) := takeField (flags.getLsbD 2) bytes
  let (up, bytes) := takeField (flags.getLsbD 3) bytes
  let (down, bytes) := takeField (flags.getLsbD 4) bytes
  let (follow, bytes) := takeField (flags.getLsbD 5) bytes
  let (suppression, bytes) := takeField (flags.getLsbD 6) bytes
  let threshold :=
    match flags.getLsbD 7, bytes with
    | true, [t1, t0] => some (clampThreshold (word16 t1 t0).toNat)
    | _, _ => none
  { allowed := allowed.map ModeSet.ofByte,
    target := target.map fun b => Mode.clamp b.toNat,
    preference := preference.map fun b => preferenceOf b.toNat,
    uplinkGain := up.map fun b => gainIndex b.toNat,
    downlinkGain := down.map fun b => gainIndex b.toNat,
    followRequests := follow.map fun b => b.getLsbD 0,
    suppression := suppression.map fun b => b.getLsbD 0,
    threshold := threshold }

/-- MODIFY's argument step: the length its flags require (R166, R185). -/
def parseModify : List Byte → Option ModifyArgs
  | ctx :: flags :: fields =>
    if fields.length = modifyLength flags then some { context := ctx.toNat, parts := modifyParts flags fields } else none
  | _ => none

/-- One bit per part of a pending record, as MODIFY's presence flags (R179, R186). -/
def PendingRecord.presence (p : PendingRecord) : Byte :=
  byte
    (p.allowed.isSome.toNat + 2 * p.target.isSome.toNat + 4 * p.preference.isSome.toNat +
      8 * p.uplinkGain.isSome.toNat + 16 * p.downlinkGain.isSome.toNat + 32 * p.followRequests.isSome.toNat +
      64 * p.suppression.isSome.toNat + 128 * p.threshold.isSome.toNat)

/-- The byte of a health state (R186, R187). -/
def Health.toByte : Health → Byte
  | .absent => 0
  | .present => 1

/-! ## Table entries (9.4, R188) -/

/-- Table numbers (9.4). -/
def TableId.ofByte? (b : Byte) : Option TableId :=
  if b = 1 then some .step
  else if b = 2 then some .gain
  else if b = 3 then some .fade
  else if b = 4 then some .window
  else if b = 5 then some .settings
  else none

/-- Entry counts (9.4). -/
def TableId.size : TableId → Nat
  | .step => 48
  | .gain => 32
  | .fade => 6
  | .window => 32
  | .settings => 8

/-- Entry lengths in bytes (9.4). -/
def TableId.entryLength : TableId → Nat
  | .step => 2
  | .gain => 2
  | .fade => 2
  | .window => 6
  | .settings => 1

/-- A Settings value made legal for its entry (R151). -/
def clampSetting (i v : Nat) : Nat :=
  match i with
  | 0 => min v 1
  | 1 => min v 3
  | 6 => max 1 (min v 8)
  | 7 => max 1 (min v 16)
  | _ => min v 7

/-- The window an entry spells, or none where R52 refuses it. -/
def Window.ofBytes? : List Byte → Option Window
  | [v, b1, b0, l1, l0, f] =>
    let base := word16 b1 b0
    let limit := word16 l1 l0
    if (v = 0 ∨ v = 1) ∧ base.toNat ≤ limit.toNat ∧ f.toNat ≤ 191 then
      some { valid := v == 1, base := base, limit := limit, first := f.toNat }
    else none
  | _ => none

/-- A window as a table entry (11.6). -/
def Window.toBytes (w : Window) : List Byte :=
  [if w.valid then 1 else 0] ++ bytes16 w.base ++ bytes16 w.limit ++ [byte w.first]

/-- Entry `i` of a table in its layout (R188). -/
def Tables.entryBytes (t : Tables) (id : TableId) (i : Nat) : List Byte :=
  match id with
  | .step => natBytes16 (t.step[i]?.getD 0)
  | .gain => natBytes16 (t.gain[i]?.getD 0)
  | .fade => natBytes16 (t.fade[i]?.getD 0)
  | .window => (t.window[i]?.getD Window.atReset).toBytes
  | .settings => [byte (t.setting i)]

/-- The unsigned number an entry of one or two bytes spells (R188). -/
def entryNumber : List Byte → Nat
  | [b] => b.toNat
  | [hi, lo] => (word16 hi lo).toNat
  | _ => 0

end Sys2Proof.Machine
end

