-- ==== Sys2Proof/Machine/Speech.lean ====
section
/-! DEFINITION. Speech arithmetic (Chapter 6): companding, gain and fade, ADPCM decoding and encoding, step choice.
Samples are integers; a right shift by n places is division by 2 ^ n rounded toward minus infinity (R108), which is
what `/` by a positive number does on `Int`. -/

namespace Sys2Proof.Machine

/-! ## The sample domain -/

/-- A linear sample (R108). -/
abbrev Sample := Int

/-- The range of a linear sample (R108). -/
abbrev inSampleRange (x : Int) : Prop :=
  -32768 ≤ x ∧ x ≤ 32767

/-- Saturation (R109). -/
def saturate (x : Int) : Sample :=
  max (-32768) (min 32767 x)

/-- What one saturation adds to the clip tally: 1 when it changes the result (R109). -/
def clipOf (x : Int) : Nat :=
  if saturate x = x then 0 else 1

/-! ## Companding -/

/-- The idle code (R3, R114). -/
def Law.idle : Law → Byte
  | .e => 0xD5
  | .b => 0xFF

/-- 160 idle codes (R114). -/
def Law.idleBuffer (law : Law) : List Byte :=
  List.replicate 160 law.idle

/-- Law E encoding (R110). -/
def encodeE (x : Sample) : Byte :=
  let m := min (x / 8).natAbs 4095
  let s := if 0 ≤ x then 128 else 0
  let tail := if m < 32 then m / 2 else (m.log2 - 4) * 16 + m / 2 ^ (m.log2 - 4) % 16
  BitVec.ofNat 8 (s + tail) ^^^ 0x55

/-- Law E decoding (R111). -/
def decodeE (code : Byte) : Sample :=
  let c := (code ^^^ 0x55).toNat
  let e := c / 16 % 8
  let mantissa := c % 16
  let m := if e = 0 then 2 * mantissa + 1 else (2 * mantissa + 33) * 2 ^ (e - 1)
  if 128 ≤ c then (m : Int) * 8 else -(m : Int) * 8

/-- Law B encoding (R112). -/
def encodeB (x : Sample) : Byte :=
  let n := min (x / 4).natAbs 8158 + 33
  let e := n.log2 - 5
  let s := if 0 ≤ x then 0 else 128
  ~~~(BitVec.ofNat 8 (s + e * 16 + n / 2 ^ (e + 1) % 16))

/-- Law B decoding (R113). -/
def decodeB (code : Byte) : Sample :=
  let c := (~~~code).toNat
  let e := c / 16 % 8
  let mantissa := c % 16
  let m := (2 * mantissa + 33) * 2 ^ e - 33
  if 128 ≤ c then -(m : Int) * 4 else (m : Int) * 4

/-- Companding by a law (R110, R112). -/
def Law.compand : Law → Sample → Byte
  | .e => encodeE
  | .b => encodeB

/-- Expansion by a law (R111, R113). -/
def Law.expand : Law → Byte → Sample
  | .e => decodeE
  | .b => decodeB

/-! ## Gain and fade -/

/-- The scaled value before saturation (R115). -/
def scaled (g : Nat) (x : Sample) : Int :=
  (x * g + 2048) / 4096

/-- Samples with a clip tally. -/
structure Scaled where
  samples : List Sample
  clips : Nat
deriving DecidableEq, Repr

/-- Gain, or fade, of a run of samples by a Q12 factor, saturated and counted (R115, R117). -/
def scale (g : Nat) (xs : List Sample) : Scaled :=
  { samples := xs.map fun x => saturate (scaled g x),
    clips := (xs.map fun x => clipOf (scaled g x)).sum }

/-! ## ADPCM decoding -/

/-- L of a mode (R119). -/
def Mode.levels (m : Mode) : Nat :=
  2 ^ (m.width - 1)

/-- The prediction from a predictor (R120). -/
def prediction (prev : Sample) : Int :=
  15 * prev / 16

/-- The reconstruction before saturation (R120). -/
def reconstruction (step : Nat) (prev : Sample) (c : Code) : Int :=
  let mag : Int := ((2 * c.mag + 1) * step / 2 : Nat)
  if c.neg then prediction prev - mag else prediction prev + mag

/-- Decoded samples, the predictor after them, and the clip tally. -/
structure Decoded where
  samples : List Sample
  predictor : Sample
  clips : Nat
deriving DecidableEq, Repr

/-- Decoding codes of one subblock with step value `step` (R120). -/
def decodeCodes (step : Nat) : Sample → List Code → Decoded
  | prev, [] => { samples := [], predictor := prev, clips := 0 }
  | prev, c :: cs =>
    let raw := reconstruction step prev c
    let x := saturate raw
    let rest := decodeCodes step x cs
    { samples := x :: rest.samples, predictor := rest.predictor, clips := clipOf raw + rest.clips }

/-- Decoding subblock after subblock, 40 codes each, the predictor carried through (R119, R121). -/
def decodeSubblocks (table : Vector Nat 48) : Sample → List (Fin 48) → List Code → Decoded
  | prev, [], _ => { samples := [], predictor := prev, clips := 0 }
  | prev, i :: is, cs =>
    let here := decodeCodes table[i] prev (cs.take 40)
    let rest := decodeSubblocks table here.predictor is (cs.drop 40)
    { samples := here.samples ++ rest.samples, predictor := rest.predictor, clips := here.clips + rest.clips }

/-- Decoding a frame (R121). -/
def decodeFrame (table : Vector Nat 48) (prev : Sample) (f : Frame) : Decoded :=
  decodeSubblocks table prev f.steps f.codes

/-! ## ADPCM encoding -/

/-- The greatest absolute value of a run of samples, 0 for none (R125). -/
def peak (xs : List Sample) : Nat :=
  xs.foldl (fun m x => max m x.natAbs) 0

/-- The step index for a subblock peak (R126): the least index whose value times 2L - 1 reaches the peak, else 47. -/
def chooseStep (table : Vector Nat 48) (levels peak : Nat) : Fin 48 :=
  match (List.finRange 48).find? fun i => peak ≤ table[i] * (2 * levels - 1) with
  | some i => i
  | none => 47

/-- The code of one sample (R127). -/
def quantise (step levels : Nat) (prev x : Sample) : Code :=
  let e := x - prediction prev
  { neg := decide (e < 0), mag := min (e.natAbs / step) (levels - 1) }

/-- Codes, the predictor after them, and the clip tally. -/
structure Encoded where
  steps : List (Fin 48)
  codes : List Code
  predictor : Sample
  clips : Nat
deriving DecidableEq, Repr

/-- Encoding the samples of one subblock (R127): the reconstruction becomes the next predictor. -/
def encodeSamples (step levels : Nat) : Sample → List Sample → Encoded
  | prev, [] => { steps := [], codes := [], predictor := prev, clips := 0 }
  | prev, x :: xs =>
    let c := quantise step levels prev x
    let raw := reconstruction step prev c
    let rest := encodeSamples step levels (saturate raw) xs
    { steps := [], codes := c :: rest.codes, predictor := rest.predictor, clips := clipOf raw + rest.clips }

/-- Encoding `count` subblocks of 40 samples (R126, R128). -/
def encodeSubblocks (table : Vector Nat 48) (mode : Mode) : Nat → Sample → List Sample → Encoded
  | 0, prev, _ => { steps := [], codes := [], predictor := prev, clips := 0 }
  | count + 1, prev, xs =>
    let block := xs.take 40
    let i := chooseStep table mode.levels (peak block)
    let here := encodeSamples table[i] mode.levels prev block
    let rest := encodeSubblocks table mode count here.predictor (xs.drop 40)
    { steps := i :: rest.steps, codes := here.codes ++ rest.codes, predictor := rest.predictor,
      clips := here.clips + rest.clips }

/-- Encoding a frame of four subblocks (R128). -/
def encodeFrame (table : Vector Nat 48) (mode : Mode) (prev : Sample) (xs : List Sample) : Encoded :=
  encodeSubblocks table mode 4 prev xs

/-- The frame an encoding stands for. -/
def Encoded.frame (mode : Mode) (e : Encoded) : Frame :=
  { mode := mode, steps := e.steps, codes := e.codes }

end Sys2Proof.Machine
end

