-- ==== Sys2Proof/Machine/Jobs.lean ====
section
/-! DEFINITION. The Transcoding Engine (Chapter 5) and the encoder's decisions (Chapter 7): voiding, issue, taking, running and
completing jobs. -/

namespace Sys2Proof.Machine

/-! ## Job records -/

/-- The kind of a job (R93). -/
def Work.kind : Work → JobKind
  | .frame _ => .decode
  | .conceal _ _ => .decode
  | .zero => .decode
  | .encode _ => .encode

/-- The job a reference names. -/
def Job.matches (j : Job) (r : JobRef) : Bool :=
  j.context == r.context && j.work.kind == r.kind

/-- The reference that names a job. -/
def Job.ref (j : Job) : JobRef :=
  { context := j.context, kind := j.work.kind }

/-- A collection buffer by name. -/
def Buffers.collected (b : Buffers) : Bank → List Byte
  | .first => b.firstBank
  | .second => b.secondBank

/-- The other collection buffer. -/
def Bank.other : Bank → Bank
  | .first => .second
  | .second => .first

/-! ## Voiding (R94, R101) -/

/-- Set the void flag of a job that `p` selects. -/
def Job.voidWhere (p : Job → Bool) (j : Job) : Job :=
  if p j then { j with void := true } else j

/-- Set the void flag of every selected job in flight. -/
def Engine.voidWhere (e : Engine) (p : Job → Bool) : Engine :=
  { queue := e.queue.map (Job.voidWhere p),
    current := e.current.map fun r => { r with job := r.job.voidWhere p } }

/-- Every job in flight, the running one first. -/
def Engine.inFlight (e : Engine) : List Job :=
  (e.current.map Run.job).toList ++ e.queue

/-- Selected jobs in flight that are not void yet. -/
def Engine.liveCount (e : Engine) (p : Job → Bool) : Nat :=
  e.inFlight.countP fun j => p j && !j.void

/-- Void every selected job of context `n` and count each as engine-late (R94, R101). -/
def State.voidJobs (s : State) (n : Nat) (p : Job → Bool) : State :=
  ({ s with engine := s.engine.voidWhere p } : State).countEngineLate n (s.engine.liveCount p)

/-! ## Taking and starting (R97, R98) -/

/-- The start of a run: what it reads (R98). -/
def State.startRun (s : State) (j : Job) : Run :=
  let c := s.channel j.context
  { job := j,
    codec := c.codec,
    gain := s.tables.gain[j.gain],
    fade := match j.work with
      | .conceal k _ => s.tables.fade[k - 1]?.getD 0
      | _ => 0,
    step := s.tables.step,
    collected := match j.work with
      | .encode w => c.buffers.collected w.bank
      | _ => [] }

/-- The idle engine removes void heads and starts the first job that is not void (R97). -/
def State.takeJob (s : State) : State :=
  match s.engine.current with
  | some _ => s
  | none =>
    match s.engine.queue.dropWhile Job.void with
    | [] => { s with engine := { s.engine with queue := [] } }
    | j :: js => { s with engine := { s.engine with queue := js, current := some (s.startRun j) } }

/-! ## Issue (R94, R95) -/

/-- The new job of an issue enters the queue, or is refused and counted (R95); an idle engine takes it (R97). -/
def State.placeJob (s : State) (j : Job) : State :=
  if s.engine.queue.length < Config.jobQueue then
    ({ s with engine := { s.engine with queue := s.engine.queue ++ [j] } } : State).takeJob
  else s.countEngineLate j.context 1

/-- An issue, which is one event: the earlier job of the new one's context and kind that is not void is voided (R94), then
the new one is placed or refused (R95). -/
def State.issueJob (s : State) (j : Job) : State :=
  (s.voidJobs j.context fun x => x.matches j.ref).placeJob j

/-- Issues one after another. -/
def State.issueJobs (s : State) (jobs : List Job) : State :=
  jobs.foldl State.issueJob s

/-- The jobs issued at one tick in an order that R96 leaves open: those that references name, in the references' order, then
the others as they stand. -/
def orderJobs : List JobRef → List Job → List Job
  | [], jobs => jobs
  | r :: rs, jobs =>
    (jobs.filter fun j => j.matches r) ++ orderJobs rs (jobs.filter fun j => !j.matches r)

/-! ## What a run computes (R99) -/

/-- The results of a DECODE run: codes, decoder predictor, trace samples, clip tally. -/
structure DecodeResult where
  codes : List Byte
  predictor : Sample
  samples : List Sample
  clips : Nat
deriving DecidableEq, Repr

/-- DECODE FRAME, CONCEAL(k) and ZERO (R122 to R124). -/
def Run.decode (r : Run) : DecodeResult :=
  match r.job.work with
  | .frame f =>
    let d := decodeFrame r.step r.codec.decoder f
    let g := scale r.gain d.samples
    { codes := g.samples.map r.job.law.compand, predictor := d.predictor, samples := g.samples,
      clips := d.clips + g.clips }
  | .conceal _ f =>
    let d := decodeFrame r.step r.codec.decoder f
    let faded := scale r.fade d.samples
    let g := scale r.gain faded.samples
    { codes := g.samples.map r.job.law.compand, predictor := d.predictor, samples := g.samples,
      clips := d.clips + faded.clips + g.clips }
  | _ =>
    { codes := r.job.law.idleBuffer, predictor := 0, samples := List.replicate 160 0, clips := 0 }

/-- The outcome of an ENCODE run (R134 to R139). -/
inductive Outcome where
  | speech
  | silence
  | nothing
deriving DecidableEq, Repr

/-- The outcome and the suppression fields it commits, from the state read, the option and the silence of the cycle (7.3). -/
def EncoderState.outcome (e : EncoderState) (option silent : Bool) : Outcome × EncoderState :=
  if option then
    match e.suppression with
    | .speaking =>
      if silent then
        let run := min 255 (e.silenceRun + 1)
        if run < Config.hangover then (.speech, { e with silenceRun := run })
        else
          (.silence, { e with silenceRun := run, predictor := 0, suppression := .suppressing, refresh := 0 })
      else (.speech, { e with silenceRun := 0 })
    | .suppressing =>
      if silent then
        if e.refresh + 1 < Config.refresh then (.nothing, { e with refresh := e.refresh + 1 })
        else (.silence, { e with refresh := 0 })
      else (.speech, { e with suppression := .speaking, silenceRun := 0 })
  else (.speech, { e with suppression := .speaking, silenceRun := 0, refresh := 0 })

/-- The results of an ENCODE run: encoder state, unit if any, trace samples, clip tally. -/
structure EncodeResult where
  encoder : EncoderState
  unit : Option (UnitKind × List Byte)
  samples : List Sample
  clips : Nat
deriving DecidableEq, Repr

/-- The header of a unit of a context (R142, R143). `mode` is 0 for SILENCE. -/
def EncodeWork.header (w : EncodeWork) (kind : UnitKind) (mode : Nat) (seq : Byte) : Header :=
  { label := w.label, kind := kind.code, mode := BitVec.ofNat 4 mode, seq := seq,
    request := BitVec.ofNat 4 (preferenceNumber w.preference), quality := 0, length := 0 }

/-- The samples of an ENCODE run after expansion and downlink gain (R125). -/
def Run.gained (r : Run) : Scaled :=
  scale r.gain (r.collected.map r.job.law.expand)

/-- A cycle is silent when its peak is at most the threshold (R134). -/
def silentCycle (threshold : Nat) (xs : List Sample) : Bool :=
  peak xs ≤ threshold

/-- An ENCODE run (R125, R134 to R143). -/
def Run.encode (r : Run) (w : EncodeWork) : EncodeResult :=
  let g := r.gained
  let e := r.codec.encoder
  let decision := e.outcome w.suppression (silentCycle w.threshold g.samples)
  match decision.1 with
  | .speech =>
    let coded := encodeFrame r.step w.mode e.predictor g.samples
    { encoder := { decision.2 with predictor := coded.predictor, seq := e.seq + 1 },
      unit := some (.speech, buildUnit (w.header .speech w.mode.width e.seq) (coded.frame w.mode).payload),
      samples := g.samples, clips := g.clips + coded.clips }
  | .silence =>
    { encoder := { decision.2 with seq := e.seq + 1 },
      unit := some (.silence, buildUnit (w.header .silence 0 e.seq) []),
      samples := g.samples, clips := g.clips }
  | .nothing =>
    { encoder := decision.2, unit := none, samples := g.samples, clips := g.clips }

/-! ## Completion (R103 to R106) -/

/-- Whether the ended run delivers (R103). -/
def State.delivers (s : State) (j : Job) : Bool :=
  let c := s.channel j.context
  !j.void && j.generation == c.generation && c.state != .free

/-- The trace point a job kind feeds (R106). -/
def tracedAt : JobKind → TracePoint
  | .decode => .uplink
  | .encode => .downlink

/-- The arming that a job of a kind would fill (R106, R181). -/
def Job.arming (j : Job) : Arming :=
  { context := j.context, point := tracedAt j.work.kind, generation := j.generation }

/-- The samples of a delivering completion offered to the Trace Unit (R106, R181). -/
def State.offerTrace (s : State) (j : Job) (samples : List Sample) : State :=
  match s.trace with
  | .armed a =>
    if a = j.arming then ({ s with trace := .filled a samples } : State).raise .traceDone else s
  | _ => s

/-- The engine becomes idle and takes its next job (R103). -/
def State.endRun (s : State) : State :=
  ({ s with engine := { s.engine with current := none } } : State).takeJob

/-- What a delivering DECODE writes into its context (R104). -/
def Channel.takeDecode (c : Channel) (d : DecodeResult) : Channel :=
  { c with
    codec := { c.codec with decoder := d.predictor },
    buffers := { c.buffers with next := d.codes, filled := true },
    counters := { c.counters with clip := countUp c.counters.clip d.clips } }

/-- What a delivering ENCODE writes into its context (R105). -/
def Channel.takeEncode (c : Channel) (d : EncodeResult) : Channel :=
  { c with
    codec := { c.codec with encoder := d.encoder },
    counters :=
      { c.counters with
        clip := countUp c.counters.clip d.clips,
        unitsSent := countUp c.counters.unitsSent d.unit.isSome.toNat,
        suppressed := countUp c.counters.suppressed d.unit.isNone.toNat } }

/-- The offer of an ENCODE's unit, if it has one (R105, R144). -/
def State.offerUnit (s : State) : Option (UnitKind × List Byte) → State
  | none => s
  | some (kind, bytes) => s.offerSpeech kind bytes

/-- A delivering DECODE completion (R104). -/
def State.deliverDecode (s : State) (r : Run) : State :=
  let d := r.decode
  ((s.updateChannel r.job.context fun c => c.takeDecode d).offerTrace r.job d.samples).endRun

/-- A delivering ENCODE completion (R105): the commit comes before the offer. -/
def State.deliverEncode (s : State) (r : Run) (w : EncodeWork) : State :=
  let d := r.encode w
  (((s.updateChannel r.job.context fun c => c.takeEncode d).offerUnit d.unit).offerTrace r.job d.samples).endRun

end Sys2Proof.Machine
end

