-- ==== Sys2Proof/Machine/EngineEvents.lean ====
section
/-! DEFINITION. The three ends of a run: DECODE_COMPLETION, ENCODE_COMPLETION and VOID_RUN_END (5.6, R100). -/

namespace Sys2Proof.Machine

/-- The end of a DECODE run (R103, R104): its results are delivered, or discarded as a void job's are. -/
def State.completeDecode (s : State) : State :=
  match s.engine.current with
  | some r =>
    match r.job.work with
    | .encode _ => s
    | _ => if s.delivers r.job then s.deliverDecode r else s.endRun
  | none => s

/-- The end of an ENCODE run (R103, R105). -/
def State.completeEncode (s : State) : State :=
  match s.engine.current with
  | some r =>
    match r.job.work with
    | .encode w => if s.delivers r.job then s.deliverEncode r w else s.endRun
    | _ => s
  | none => s

/-- The end of a run that does not deliver (R100, R103). -/
def State.endVoid (s : State) : State :=
  match s.engine.current with
  | some r => if s.delivers r.job then s else s.endRun
  | none => s

/-- DECODE_COMPLETION (R104). In RESET the engine is stopped. -/
def execDecodeCompletion (s : State) : Host.Outcome State Fault Refusal :=
  if s.management.device = .reset then .next s else .next s.completeDecode

/-- ENCODE_COMPLETION (R105). In RESET the engine is stopped. -/
def execEncodeCompletion (s : State) : Host.Outcome State Fault Refusal :=
  if s.management.device = .reset then .next s else .next s.completeEncode

/-- VOID_RUN_END (R100). In RESET the engine is stopped. -/
def execVoidRunEnd (s : State) : Host.Outcome State Fault Refusal :=
  if s.management.device = .reset then .next s else .next s.endVoid

end Sys2Proof.Machine
end

