-- ==== Sys2Proof/Machine/Playout.lean ====
section
/-! DEFINITION. Uplink playout (Chapter 4): arrivals into a playout record, the decision at a boundary, stream health. -/

namespace Sys2Proof.Machine

/-- The distance of a sequence number from a reference (00_scope; R66, R69). -/
def distance (seq ref : Byte) : Nat :=
  (seq - ref).toNat

/-- A run or count of a playout record: saturates at 255 (R78, R83, R87). -/
def runUp (n : Nat) : Nat :=
  min 255 (n + 1)

/-! ## Arrivals (4.2) -/

/-- An entry put at the place its distance gives it (R73). -/
def insertEntry (ref : Byte) (e : Entry) : List Entry → List Entry
  | [] => [e]
  | q :: qs =>
    if distance e.seq ref < distance q.seq ref then e :: q :: qs else q :: insertEntry ref e qs

/-- What becomes of an arrival (R69). -/
inductive Disposal where
  | late
  | duplicate
  | inserted
  | resynced (dropped : Nat)
deriving DecidableEq, Repr

/-- An arrival for an unanchored record sets next_seq and the priming count (R70). -/
def Playout.anchor (p : Playout) (seq : Byte) : Playout :=
  if p.anchored then p else { p with nextSeq := seq, anchored := true, primingCount := 0 }

/-- Replace the entry of the same sequence, in its place (R74). -/
def replaceEntry (e : Entry) (queue : List Entry) : List Entry :=
  queue.map fun q => if q.seq = e.seq then e else q

/-- Disposal of an entry by an anchored record (R71 to R74). -/
def Playout.dispose (p : Playout) (e : Entry) : Playout × Disposal :=
  let d := distance e.seq p.nextSeq
  if 128 ≤ d then (p, .late)
  else if 8 ≤ d then
    ({ p with queue := [e], nextSeq := e.seq, state := .priming, primingCount := 0, silentGap := 0 },
      .resynced p.queue.length)
  else
    match p.queue.find? fun q => q.seq == e.seq with
    | none => ({ p with queue := insertEntry p.nextSeq e p.queue }, .inserted)
    | some q =>
      if q.body = .damaged ∧ e.body ≠ .damaged then ({ p with queue := replaceEntry e p.queue }, .inserted)
      else (p, .duplicate)

/-- The quality of an arrival that was taken (R75). -/
def Playout.takeQuality (p : Playout) (q : BitVec 4) : Playout :=
  { p with lastQuality := q, minQuality := if q.toNat < p.minQuality.toNat then q else p.minQuality }

/-- The counters an arrival changes (R91). -/
def ContextCounters.disposed (c : ContextCounters) : Disposal → ContextCounters
  | .late => { c with late := countUp c.late 1 }
  | .duplicate => { c with duplicate := countUp c.duplicate 1 }
  | .inserted => c
  | .resynced dropped =>
    { c with resync := countUp c.resync 1, resyncDropped := countUp c.resyncDropped dropped }

/-- An arrival whose entry reached the queue (R75). -/
def Disposal.taken : Disposal → Bool
  | .late => false
  | .duplicate => false
  | .inserted => true
  | .resynced _ => true

/-- The request of a taken arrival becomes the pending target when it is 2..4 and follow-requests is applied on (R6, R75). -/
def Channel.takeRequest (c : Channel) (request : BitVec 4) : Channel :=
  match c.applied.followRequests, Mode.ofNat? request.toNat with
  | true, some m => { c with waiting := { c.waiting with target := some m } }
  | _, _ => c

/-- An arrival at an OPEN context, in the order of R69. -/
def Channel.arrive (c : Channel) (seq : Byte) (body : EntryBody) (request quality : BitVec 4) : Channel :=
  let (p, disposal) := (c.playout.anchor seq).dispose { seq := seq, body := body }
  let c := { c with counters := c.counters.disposed disposal }
  if disposal.taken then ({ c with playout := p.takeQuality quality }).takeRequest request
  else { c with playout := p }

/-! ## Health (4.4) -/

/-- A frame recorded for health (R87): good, lost, or none. -/
inductive Recorded where
  | good
  | lost
  | nothing
deriving DecidableEq, Repr

/-- The record of one frame (R87 to R89). `nGood` and `nLost` are the thresholds decoded at this recording. -/
def HealthRecord.record (h : HealthRecord) (nGood nLost : Nat) : Recorded → HealthRecord
  | .nothing => h
  | .good =>
    { health := if h.health = .absent ∧ nGood ≤ runUp h.goodRun then .present else h.health,
      goodRun := runUp h.goodRun, lostRun := 0 }
  | .lost =>
    { health := if h.health = .present ∧ nLost ≤ runUp h.lostRun then .absent else h.health,
      goodRun := 0, lostRun := runUp h.lostRun }

/-! ## The decision at a boundary (4.3) -/

/-- The counter of the playout record that a decision increments (R79, R81, R82). -/
inductive Counted where
  | good
  | damaged
  | lost
  | nothing
deriving DecidableEq, Repr

/-- A decision: the record after it (health apart), the source of the DECODE job, the counter, the health record. -/
structure Decision where
  playout : Playout
  work : Work
  counted : Counted
  recorded : Recorded
deriving DecidableEq, Repr

/-- Concealment (R83): the loss count rises, and the job is CONCEAL(k) for k in 1..6 with a last good frame, else ZERO. -/
def Playout.conceal (p : Playout) : Playout × Work :=
  let k := runUp p.lossCount
  let work :=
    match p.lastGood with
    | some f => if k ≤ 6 then Work.conceal k f else .zero
    | none => .zero
  ({ p with lossCount := k }, work)

/-- Playing a head that stands at next_seq (R79 to R81). -/
def Playout.playHead (p : Playout) (head : Entry) (rest : List Entry) : Decision :=
  let p := { p with queue := rest, nextSeq := p.nextSeq + 1 }
  match head.body with
  | .speech f =>
    { playout := { p with lastGood := some f, lossCount := 0 }, work := .frame f, counted := .good, recorded := .good }
  | .silence =>
    { playout := { p with lastGood := none, lossCount := 0, state := .silent, silentGap := 0 },
      work := .zero, counted := .nothing, recorded := .good }
  | .damaged =>
    { playout := p.conceal.1, work := p.conceal.2, counted := .damaged, recorded := .lost }

/-- Concealing a gap at next_seq (R82). -/
def Playout.playGap (p : Playout) : Decision :=
  { playout := { p.conceal.1 with nextSeq := p.nextSeq + 1 }, work := p.conceal.2, counted := .lost, recorded := .lost }

/-- The PLAYING decision (R79 to R82). -/
def Playout.play (p : Playout) : Decision :=
  match p.queue with
  | [] => p.playGap
  | head :: rest => if head.seq = p.nextSeq then p.playHead head rest else p.playGap

/-- The playout decision (R78 to R85) for a target depth and a priming limit. -/
def Playout.decide (p : Playout) (depth limit : Nat) : Decision :=
  match p.state with
  | .priming =>
    if depth ≤ p.queue.length ∨ (limit ≤ p.primingCount ∧ p.queue ≠ []) then
      ({ p with state := .playing } : Playout).play
    else
      { playout := { p with primingCount := runUp p.primingCount }, work := .zero, counted := .nothing,
        recorded := .nothing }
  | .playing => p.play
  | .silent =>
    match p.queue with
    | head :: rest => ({ p with state := .playing, nextSeq := head.seq } : Playout).playHead head rest
    | [] =>
      { playout :=
          { p with
            silentGap := p.silentGap + 1,
            state := if Config.silentLimit ≤ p.silentGap + 1 then .playing else .silent },
        work := .zero, counted := .nothing, recorded := .nothing }

/-- The counters a decision changes (R91). -/
def ContextCounters.decided (c : ContextCounters) : Counted → ContextCounters
  | .good => { c with good := countUp c.good 1 }
  | .damaged => { c with damaged := countUp c.damaged 1 }
  | .lost => { c with lost := countUp c.lost 1 }
  | .nothing => c

/-- A health transition of context `n`: its flag and its place in the health-change list (R88, R89, R175). -/
def Status.healthMoved (st : Status) (n : Nat) (before after : Health) : Status :=
  match before, after with
  | .absent, .present => (st.raise .streamGain).addHealthChange n
  | .present, .absent => (st.raise .streamLoss).addHealthChange n
  | _, _ => st

/-- The decision at a boundary of context `n`: its playout record, its counters, its health record and its transition
(R76, R87, R91). -/
def State.decidePlayout (s : State) (n depth : Nat) : State :=
  let c := s.channel n
  let d := c.playout.decide depth (s.tables.setting 7)
  let health :=
    c.playout.health.record (healthFrames (s.tables.setting 4)) (healthFrames (s.tables.setting 5)) d.recorded
  let c' :=
    { c with playout := { d.playout with health := health }, counters := c.counters.decided d.counted }
  let s := s.setChannel n c'
  { s with status := s.status.healthMoved n c.playout.health.health health.health }

end Sys2Proof.Machine
end

