-- ==== Sys2Proof/Machine/Boundary.lean ====
section
/-! DEFINITION. The boundary of a context (1.6, 1.7, 2.5) and the sample transfer of a tick (2.4). -/

namespace Sys2Proof.Machine

/-! ## Settings application (R17 to R21) -/

/-- The first step: present parts become applied (R18). -/
def Applied.move (a : Applied) (p : PendingRecord) : Applied :=
  { allowed := p.allowed.getD a.allowed,
    target := p.target.getD a.target,
    mode := a.mode,
    preference := p.preference.getD a.preference,
    uplinkGain := p.uplinkGain.getD a.uplinkGain,
    downlinkGain := p.downlinkGain.getD a.downlinkGain,
    followRequests := p.followRequests.getD a.followRequests,
    suppression := p.suppression.getD a.suppression,
    threshold := p.threshold.getD a.threshold }

/-- The other three steps: the target resolved, the mode resolved, the mode stepped (R20, R21). -/
def Applied.settle (a : Applied) : Applied :=
  let target := a.allowed.resolve a.target.width
  let mode := a.allowed.resolve a.mode.width
  { a with target := target, mode := a.allowed.stepToward mode target }

/-- Suppression going from on to off sends the suppression state back to SPEAKING (R18). -/
def EncoderState.suppressionOff (e : EncoderState) : EncoderState :=
  { e with suppression := .speaking, silenceRun := 0, refresh := 0 }

/-- The four steps at a boundary with the staging hold clear (R17). -/
def Channel.applySettings (c : Channel) : Channel :=
  let moved := c.applied.move c.waiting
  { c with
    applied := moved.settle,
    waiting := PendingRecord.empty,
    codec :=
      if c.applied.suppression ∧ ¬moved.suppression then { c.codec with encoder := c.codec.encoder.suppressionOff }
      else c.codec }

/-! ## Buffers (R38 to R40) -/

/-- The output buffer exchange (R38). -/
def Buffers.exchange (b : Buffers) (law : Law) : Buffers :=
  if b.filled then { b with playing := b.next, next := b.playing, filled := false }
  else { b with playing := law.idleBuffer }

/-- The collection buffers change roles (R39). -/
def Buffers.handOver (b : Buffers) : Buffers :=
  { b with bank := b.bank.other }

/-- One received code written into the collecting buffer (R34). -/
def Buffers.collect (b : Buffers) (position : Nat) (code : Byte) : Buffers :=
  match b.bank with
  | .first => { b with firstBank := b.firstBank.set position code }
  | .second => { b with secondBank := b.secondBank.set position code }

/-- The four buffers at OPEN (R10, R37). DESIGN CHOICE (log 2): the manual says of the next buffer only that it is not marked
filled, and of the collection buffers that none is in use; the model fills all three with 160 idle codes. No rule reads one
of these codes before it is overwritten. -/
def Buffers.atOpen (law : Law) : Buffers :=
  { playing := law.idleBuffer, next := law.idleBuffer, filled := false, firstBank := law.idleBuffer,
    secondBank := law.idleBuffer, bank := .first }

/-! ## Sample transfer (R33 to R36) -/

/-- A context's position at a device frame counter value (R33). -/
def position (frameCounter phase : Nat) : Nat :=
  (frameCounter + Config.cycleTicks - phase) % Config.cycleTicks

/-- The code a highway gives a context at this tick: the received one, or the idle code while UNLOCKED (R34). -/
def collectedCode (h : Highway) (b : Binding) : Byte :=
  if h.locked then timeslotCode h.received b.timeslot else b.law.idle

/-- The transfer at one tick for a context that is not FREE (R34, R35): collect (once past the first boundary), drive. -/
def Channel.transfer (c : Channel) (highways : Vector Highway 4) (frameCounter : Nat) : Channel :=
  match c.state, c.binding with
  | .free, _ => { c with driven := none }
  | _, none => { c with driven := none }
  | _, some b =>
    let at_ := position frameCounter b.phase
    { c with
      buffers :=
        if c.firstBoundary then c.buffers else c.buffers.collect at_ (collectedCode highways[b.highway] b),
      driven := some (c.buffers.playing.getD at_ b.law.idle) }

/-! ## The transmit frame (R23, R36) -/

/-- The code driven in a timeslot of a highway at the present tick: that of the context bound to it; none where no context
drives it. -/
def State.drivenIn (s : State) (highway : Fin 4) (timeslot : Fin 64) : Option Byte :=
  s.channels.toArray.toList.findSome? fun c =>
    if c.binding.any fun b => b.highway = highway ∧ b.timeslot = timeslot then c.driven else none

/-- Bit `k`, counted from the frame pulse, of the present tick's transmit frame on HWn_TX: timeslot t has bits 8t to 8t+7,
its code most significant bit first (R23). None is the high-impedance state of a timeslot that is not driven (R36). -/
def State.transmitBit (s : State) (highway : Fin 4) (k : Fin 512) : Option Bool :=
  (s.drivenIn highway (Fin.ofNat 64 (k.val / 8))).map fun code => code.getMsbD (k.val % 8)

/-- The present tick's transmit frame on HWn_TX, 512 bits from the frame pulse on (R23). -/
def State.transmitFrame (s : State) (highway : Fin 4) : Vector (Option Bool) 512 :=
  Vector.ofFn (s.transmitBit highway)

/-! ## The boundary -/

/-- A job of context `n` with the fields both kinds capture (R93). -/
def Channel.job (c : Channel) (n : Nat) (b : Binding) (work : Work) (gain : Fin 32) : Job :=
  { context := n, generation := c.generation, work := work, law := b.law, gain := gain, void := false }

/-- What the ENCODE job of a boundary captures (R93, R132). -/
def Channel.encodeWork (c : Channel) (b : Binding) : EncodeWork :=
  { bank := c.buffers.bank.other, mode := c.applied.mode, suppression := c.applied.suppression,
    threshold := c.applied.threshold, preference := c.applied.preference, label := b.label }

/-- The Highway Port's and the Context Table's work at a boundary of an OPEN context (R17, R38 to R40). -/
def Channel.boundaryWork (c : Channel) (b : Binding) (hold : Bool) : Channel :=
  let buffers := c.buffers.exchange b.law
  let c := { c with boundaryDue := false, buffers := if c.firstBoundary then buffers else buffers.handOver }
  if hold then c else c.applySettings

/-- The boundary of an OPEN context up to its issues: settings, buffers and the playout decision (R17, R38, R39, R76). -/
def State.decidedBoundary (s : State) (n : Nat) (b : Binding) : State :=
  (s.updateChannel n fun c => c.boundaryWork b s.stagingHold).decidePlayout n b.depth

/-- The boundary of an OPEN context but for its issues, which `boundaryJobs` gives; the transfer at position 0 comes after
it (R11, R33). The issues touch nothing that the transfer reads or writes. -/
def State.openBoundary (s : State) (n : Nat) (b : Binding) : State :=
  (s.decidedBoundary n b).updateChannel n fun c =>
    { c with firstBoundary := false }.transfer s.highway.highways s.highway.frameCounter

/-- A context becoming FREE (R16). DESIGN CHOICE (log 2): the applied settings keep their values. R1 says that no block reads them
while the context is FREE, and no rule says what they then hold. -/
def Channel.released (c : Channel) : Channel :=
  { c with
    state := .free, binding := none, waiting := PendingRecord.empty, firstBoundary := false, boundaryDue := false,
    playout := { c.playout with queue := [] }, buffers := Buffers.unused, driven := none }

/-- A trace ARMED on the closing context returns to IDLE, aborted (R16, R181). -/
def Trace.closing (t : Trace) (n : Nat) : Trace :=
  match t with
  | .armed a => if a.context = n then .idle (some a) true else t
  | _ => t

/-- The boundary at which CLOSING completes (R16, R41, R101). -/
def State.closeBoundary (s : State) (n : Nat) : State :=
  let s := s.voidJobs n fun j => j.context == n
  let s := s.updateChannel n Channel.released
  { s with trace := s.trace.closing n }

/-- The work of a context's boundary but for its issues, if the present tick owes it one (R33). -/
def State.boundary (s : State) (n : Nat) : State :=
  let c := s.channel n
  if c.boundaryDue then
    match c.state, c.binding with
    | .opened, some b => s.openBoundary n b
    | .closing, _ => s.closeBoundary n
    | _, _ => s.setChannel n { c with boundaryDue := false }
  else s

/-- The jobs that a context's boundary issues, if the present tick owes an OPEN context one: the DECODE of the decision
(R76), and past the first boundary the ENCODE of the handed-over buffer (R132). They capture the settings as the boundary
leaves them (R93). -/
def State.boundaryJobs (s : State) (n : Nat) : List Job :=
  let c := s.channel n
  if c.boundaryDue then
    match c.state, c.binding with
    | .opened, some b =>
      let d := (s.decidedBoundary n b).channel n
      d.job n b (c.playout.decide b.depth (s.tables.setting 7)).work d.applied.uplinkGain ::
        if c.firstBoundary then [] else [d.job n b (.encode (d.encodeWork b)) d.applied.downlinkGain]
    | _, _ => []
  else []

/-- A context and those that references name, each once, in the order of their numbers. -/
def contextsNamed (n : Nat) (order : List JobRef) : List Nat :=
  order.foldr (fun r => insertNumber r.context) [n]

/-- The boundaries of some contexts, and the issues of their jobs in an order. The boundaries of one tick touch different
state (R33), so no order is taken among them. -/
def State.takeBoundaries (s : State) (contexts : List Nat) (order : List JobRef) : State :=
  (contexts.foldl State.boundary s).issueJobs (orderJobs order (contexts.flatMap s.boundaryJobs))

/-- A context's boundary, with those of the other contexts that `order` names: the issues that fall together enter the queue
in that order (R96; log 4). -/
def State.contextBoundary (s : State) (n : Nat) (order : List JobRef) : State :=
  s.takeBoundaries (contextsNamed n order) order

end Sys2Proof.Machine
end

