-- ==== Sys2Proof/Machine/Replies.lean ====
section
/-! DEFINITION. What a command of a CONTROL list answers (R162), and the data layouts of R186. -/

namespace Sys2Proof.Machine

/-- A command's reply: the state after it, its result and data, and whether it is an accepted RESTART (R157). -/
structure Reply where
  state : State
  result : Result
  data : List Byte
  restart : Bool
deriving DecidableEq, Repr

/-- OK with data. -/
def Reply.ok (s : State) (data : List Byte) : Reply :=
  { state := s, result := .ok, data := data, restart := false }

/-- A refusal with no data, which changes nothing (R162). -/
def Reply.refuse (s : State) (result : Result) : Reply :=
  { state := s, result := result, data := [], restart := false }

end Sys2Proof.Machine
end

