-- ==== Sys2Proof/Machine/ContextCommands.lean ====
section
/-! DEFINITION. OPEN, MODIFY, CLOSE and CONTEXT REPORT inside a command list (Chapter 1, 10.4), and the label lookup they
share with port A (R47). -/

namespace Sys2Proof.Machine

/-- A window that takes part in the lookup of a label (R47). -/
def Window.matches (w : Window) (label : BitVec 16) : Bool :=
  w.valid && w.base.toNat ≤ label.toNat && label.toNat ≤ w.limit.toNat

/-- The number the lowest matching window gives a label; none when no valid window matches (R47). -/
def Tables.lookup (t : Tables) (label : BitVec 16) : Option Nat :=
  (t.window.toArray.toList.find? fun w => w.matches label).map fun w => w.first + (label.toNat - w.base.toNat)

/-- OPEN's checks in the order of R7; none when it passes them all. -/
def State.openRefusal (s : State) (a : OpenArgs) : Option Result :=
  if s.management.device ≠ .operating ∨ (a.context ≤ 191 ∧ (s.channel a.context).state ≠ .free) then some .badState
  else if 191 < a.context ∨ 3 < a.highway ∨ 63 < a.timeslot ∨ 159 < a.phase ∨ ¬a.allowed.nonempty ∨
      a.label = s.managementLabel then some .badArgument
  else if s.countBound (fun b => b.highway.val == a.highway && b.timeslot.val == a.timeslot) ≠ 0 then some .timeslotTaken
  else if Config.phaseShare ≤ s.countBound (fun b => b.phase == a.phase) then some .phaseFull
  else if s.tables.lookup a.label ≠ some a.context then some .labelMismatch
  else none

/-- The binding OPEN writes (R3). -/
def OpenArgs.binding (a : OpenArgs) : Binding :=
  { highway := Fin.ofNat 4 a.highway, timeslot := Fin.ofNat 64 a.timeslot, phase := a.phase, law := a.law,
    label := a.label, depth := clampDepth a.depth }

/-- The applied settings OPEN writes (R8, R9). -/
def OpenArgs.applied (a : OpenArgs) : Applied :=
  let mode := a.allowed.resolve a.initialMode
  { allowed := a.allowed, target := mode, mode := mode, preference := preferenceOf a.preference,
    uplinkGain := gainIndex a.uplinkGain, downlinkGain := gainIndex a.downlinkGain, followRequests := a.followRequests,
    suppression := a.suppression, threshold := clampThreshold a.threshold }

/-- A context just opened (R9, R10). -/
def Channel.opened (c : Channel) (a : OpenArgs) : Channel :=
  { state := .opened, generation := c.generation + 1, binding := some a.binding, applied := a.applied,
    waiting := PendingRecord.empty, firstBoundary := true, boundaryDue := false, playout := Playout.start,
    codec := Codec.start, buffers := Buffers.atOpen a.law, driven := none, counters := ContextCounters.zero }

/-- OPEN (R7 to R10). -/
def cmdOpen (args : List Byte) (s : State) : Reply :=
  match parseOpen args with
  | none => .refuse s .badArgument
  | some a =>
    match s.openRefusal a with
    | some r => .refuse s r
    | none => .ok (s.updateChannel a.context fun c => c.opened a) []

/-- Present parts replace what the pending record held (R6, R13). -/
def PendingRecord.merge (p new : PendingRecord) : PendingRecord :=
  { allowed := new.allowed <|> p.allowed,
    target := new.target <|> p.target,
    preference := new.preference <|> p.preference,
    uplinkGain := new.uplinkGain <|> p.uplinkGain,
    downlinkGain := new.downlinkGain <|> p.downlinkGain,
    followRequests := new.followRequests <|> p.followRequests,
    suppression := new.suppression <|> p.suppression,
    threshold := new.threshold <|> p.threshold }

/-- MODIFY (R12, R13). -/
def cmdModify (args : List Byte) (s : State) : Reply :=
  match parseModify args with
  | none => .refuse s .badArgument
  | some m =>
    if 191 < m.context then .refuse s .badArgument
    else if (s.channel m.context).state ≠ .opened then .refuse s .badState
    else if m.parts.allowed.any (fun set => !set.nonempty) then .refuse s .badArgument
    else .ok (s.updateChannel m.context fun c => { c with waiting := c.waiting.merge m.parts }) []

/-- CLOSE (R14). -/
def cmdClose (args : List Byte) (s : State) : Reply :=
  match args with
  | [b] =>
    if 191 < b.toNat then .refuse s .badArgument
    else
      match (s.channel b.toNat).state with
      | .free => .refuse s .badState
      | .opened => .ok (s.updateChannel b.toNat fun c => { c with state := .closing }) []
      | .closing => .ok s []
  | _ => .refuse s .badArgument

/-- Bytes of the states in CONTEXT REPORT (R186). -/
def ContextState.toByte : ContextState → Byte
  | .free => 0
  | .opened => 1
  | .closing => 2

def PlayoutState.toByte : PlayoutState → Byte
  | .priming => 0
  | .playing => 1
  | .silent => 2

/-- The eleven counters in the order of R179. -/
def ContextCounters.toList (c : ContextCounters) : List Nat :=
  [c.good, c.damaged, c.lost, c.late, c.duplicate, c.resync, c.resyncDropped, c.engineLate, c.clip, c.unitsSent,
   c.suppressed]

/-- The report fields (R179, R186). -/
def Channel.report (c : Channel) : List Byte :=
  [c.state.toByte, c.playout.state.toByte, c.playout.health.health.toByte, byte c.applied.mode.width,
    byte c.applied.target.width, c.waiting.presence, byte c.playout.queue.length, c.playout.nextSeq,
    c.playout.lastQuality.setWidth 8, c.playout.minQuality.setWidth 8] ++
    c.counters.toList.flatMap natBytes16

/-- CONTEXT REPORT (R179). -/
def cmdContextReport (args : List Byte) (s : State) : Reply :=
  match args with
  | [b] =>
    if 191 < b.toNat then .refuse s .badArgument
    else if (s.channel b.toNat).state = .free then .refuse s .badState
    else
      .ok
        (s.updateChannel b.toNat fun c =>
          { c with counters := ContextCounters.zero, playout := { c.playout with minQuality := 15 } })
        (s.channel b.toNat).report
  | _ => .refuse s .badArgument

end Sys2Proof.Machine
end

