-- ==== Sys2Proof/Machine/DeviceCommands.lean ====
section
/-! DEFINITION. IDENTIFY, SET STATE, HOLD, RELEASE and RESTART inside a command list (Chapter 8). -/

namespace Sys2Proof.Machine

/-- The identification fields (R159, R186). -/
def identification (straps : Straps) : List Byte :=
  natBytes16 0x0E47 ++ natBytes16 0x0192 ++ [byte 1, byte (strapValue straps), byte Config.contexts, byte Config.jobQueue] ++
    [TableId.step, .gain, .fade, .window, .settings].map fun id => byte id.size

/-- IDENTIFY (R159). -/
def cmdIdentify (args : List Byte) (s : State) : Reply :=
  if args = [] then .ok s (identification s.management.straps) else .refuse s .badArgument

/-- The device states SET STATE can ask for (R185). -/
def DeviceState.ofByte? (b : Byte) : Option DeviceState :=
  if b = 1 then some .standby else if b = 2 then some .operating else none

/-- The byte of a device state in READ STATUS (R186). -/
def DeviceState.toByte : DeviceState → Byte
  | .reset => 0
  | .standby => 1
  | .operating => 2

/-- The device state replaced (R154: a change of state touches nothing else). -/
def State.withDevice (s : State) (d : DeviceState) : State :=
  { s with management := { s.management with device := d } }

/-- SET STATE (R154). -/
def cmdSetState (args : List Byte) (s : State) : Reply :=
  match args with
  | [b] =>
    match DeviceState.ofByte? b with
    | some .standby =>
      if s.management.device = .operating ∧ ¬s.allFree then .refuse s .badState else .ok (s.withDevice .standby) []
    | some d => .ok (s.withDevice d) []
    | none => .refuse s .badArgument
  | _ => .refuse s .badArgument

/-- HOLD (R152). -/
def cmdHold (args : List Byte) (s : State) : Reply :=
  if args = [] then .ok { s with stagingHold := true } [] else .refuse s .badArgument

/-- RELEASE (R152). -/
def cmdRelease (args : List Byte) (s : State) : Reply :=
  if args = [] then .ok { s with stagingHold := false } [] else .refuse s .badArgument

/-- RESTART (R157). `last` says that it ends its CONTROL unit's payload. The pending state is set when the RESPONSE is
offered. -/
def cmdRestart (last : Bool) (args : List Byte) (s : State) : Reply :=
  if args ≠ [] then .refuse s .badArgument
  else if !last then .refuse s .badArgument
  else if s.management.restart.isSome then .refuse s .badState
  else { state := s, result := .ok, data := [], restart := true }

end Sys2Proof.Machine
end

