-- ==== Sys2Proof/Machine/StatusCommands.lean ====
section
/-! DEFINITION. READ STATUS, CLEAR FLAGS, SET NOTICE MASK, TRACE ARM and TRACE READ inside a command list (Chapter 10). -/

namespace Sys2Proof.Machine

/-- The twelve device counters in the order of R177. -/
def DeviceCounters.toList (c : DeviceCounters) : List Nat :=
  [c.checkFailuresA, c.checkFailuresB, c.unclaimed, c.badKind, c.malformed, c.closedContext, c.aToBDrops, c.bToADrops,
   c.originatedDrops, c.stale, c.responsesLost, c.originatedSent]

/-- The lock state of highway n in bit n (R186). DESIGN CHOICE (log 18): bits 7..4, to which R186 gives no value, are 0. -/
def lockByte (highways : Vector Highway 4) : Byte :=
  byte
    (highways[0].locked.toNat + 2 * highways[1].locked.toNat + 4 * highways[2].locked.toNat +
      8 * highways[3].locked.toNat)

/-- The trace byte: the state in bits 1..0, the aborted indication in bit 7 (R186). DESIGN CHOICE (log 18): bits 6..2, to which
R186 gives no value, are 0. -/
def Trace.toByte : Trace → Byte
  | .idle _ aborted => if aborted then 0x80 else 0
  | .armed _ => 1
  | .filled _ _ => 2

/-- A flag as a byte, 0 or 1. -/
def boolByte (b : Bool) : Byte :=
  if b then 1 else 0

/-- The status fields (R177, R186). -/
def State.statusData (s : State) : List Byte :=
  [s.management.device.toByte, boolByte s.stagingHold, lockByte s.highway.highways, boolByte s.inHoldover,
    s.trace.toByte, s.status.flags, s.status.mask] ++
    s.status.counters.toList.flatMap natBytes16

/-- READ STATUS (R177): the device counters are cleared as they are read. -/
def cmdReadStatus (args : List Byte) (s : State) : Reply :=
  if args = [] then .ok (s.count fun _ => DeviceCounters.zero) s.statusData else .refuse s .badArgument

/-- CLEAR FLAGS (R178). -/
def cmdClearFlags (args : List Byte) (s : State) : Reply :=
  match args with
  | [selected] => .ok { s with status := s.status.clear selected } []
  | _ => .refuse s .badArgument

/-- SET NOTICE MASK (R178). -/
def cmdSetNoticeMask (args : List Byte) (s : State) : Reply :=
  match args with
  | [mask] => .ok { s with status := { s.status with mask := mask } } []
  | _ => .refuse s .badArgument

/-- TRACE ARM (R180). -/
def cmdTraceArm (args : List Byte) (s : State) : Reply :=
  match args with
  | [ctx, point] =>
    match TracePoint.ofByte? point with
    | none => .refuse s .badArgument
    | some p =>
      if 191 < ctx.toNat then .refuse s .badArgument
      else if (s.channel ctx.toNat).state ≠ .opened then .refuse s .badState
      else
        .ok
          { s with
            trace := .armed { context := ctx.toNat, point := p, generation := (s.channel ctx.toNat).generation } }
          []
  | _ => .refuse s .badArgument

/-- The effective count of TRACE READ (R182); none where the offset or the count is out of range. -/
def traceCount? (offset count : Byte) : Option Nat :=
  if 159 < offset.toNat ∨ count = 0 then none else some (min (min count.toNat Config.traceChunk) (160 - offset.toNat))

/-- FIRST in bit 0, LAST in bit 1 (R182, R186). DESIGN CHOICE (log 18): bits 7..2, to which R186 gives no value, are 0. -/
def traceIndications (offset count : Nat) : Byte :=
  byte ((if offset = 0 then 1 else 0) + if offset + count = 160 then 2 else 0)

/-- The data of a TRACE READ (R182, R186). -/
def traceData (a : Arming) (samples : List Int) (offset count : Nat) : List Byte :=
  [traceIndications offset count, byte a.context, a.point.toByte, a.generation] ++
    ((samples.drop offset).take count).flatMap intBytes16

/-- TRACE READ (R182). -/
def cmdTraceRead (args : List Byte) (s : State) : Reply :=
  match args with
  | [offset, count] =>
    match traceCount? offset count with
    | none => .refuse s .badArgument
    | some n =>
      match s.trace with
      | .filled a samples => .ok s (traceData a samples offset.toNat n)
      | _ => .refuse s .badState
  | _ => .refuse s .badArgument

end Sys2Proof.Machine
end

