-- ==== Sys2Proof/Machine/Supervision.lean ====
section
/-! DEFINITION. Frame pulse supervision, the tick source and the frame counter (2.2, 2.3). -/

namespace Sys2Proof.Machine

/-- The reference highway has locked, and no tick has been timed by its pulse since (R30). -/
def State.acquiring (s : State) : Bool :=
  s.tables.slave && s.referenceHighway.locked && s.highway.tickSource == .internal

/-- Exactly one pulse, one nominal frame after the recorded one (R26). -/
def inRhythm (record : Option Nat) (pulses : List Nat) : Bool :=
  match record, pulses with
  | some r, [p] => r + p == Config.frameBits
  | _, _ => false

/-- Exactly one pulse, at the start of the tick's frame: `start` bit periods after the start of the previous one (R26). -/
def pulseAt (start : Nat) (pulses : List Nat) : Bool :=
  pulses == [start]

/-- The tick ends at the pulse of a newly locked reference and not one nominal frame after the previous tick: the pulse is the
interval's only one, stands at its end and keeps the rhythm of the recorded one (R30; DEDUCED, log 6). -/
def State.retimed (s : State) (inputs : Vector HighwayInput 4) : Bool :=
  let input := inputs[s.tables.reference]
  s.acquiring && pulseAt input.span input.pulses && inRhythm s.referenceHighway.lastPulse input.pulses

/-- The judgment of highway `i` at a tick (R26). The start of the tick's frame is one nominal frame after the previous
tick's, except where a newly locked reference has moved the tick to its pulse (R30; DEDUCED, log 6). -/
def State.judge (s : State) (i : Fin 4) (inputs : Vector HighwayInput 4) : Bool :=
  let h := s.highway.highways[i]
  let input := inputs[i]
  if !s.tables.slave then true
  else if i = s.tables.reference then
    if !h.locked then inRhythm h.lastPulse input.pulses
    else pulseAt Config.frameBits input.pulses || s.retimed inputs
  else pulseAt (if s.retimed inputs then input.span else Config.frameBits) input.pulses

/-- Both counts saturate at 255 (R27). -/
def judgeCount (n : Nat) : Nat :=
  min 255 (n + 1)

/-- The previous-pulse record after a tick: the last pulse of the interval, as bit periods before the tick's frame (R26). -/
def pulseRecord (input : HighwayInput) : Option Nat :=
  input.pulses.getLast?.map fun p => input.span - p

/-- One highway after its judgment: counts (R27), lock state (R28), record, and the bits of the tick's receive frame. -/
def Highway.judged (h : Highway) (good : Bool) (nIn nOut : Nat) (input : HighwayInput) : Highway :=
  let goodCount := if good then judgeCount h.goodCount else 0
  let badCount := if good then 0 else judgeCount h.badCount
  { locked := if h.locked then !(!good && nOut ≤ badCount) else good && nIn ≤ goodCount,
    goodCount := goodCount, badCount := badCount, lastPulse := pulseRecord input, received := input.frame }

/-- The four highways after the judgments of a tick. -/
def State.judgedHighways (s : State) (inputs : Vector HighwayInput 4) : Vector Highway 4 :=
  Vector.ofFn fun i =>
    s.highway.highways[i].judged (s.judge i inputs) (lockFrames (s.tables.setting 2)) (lockFrames (s.tables.setting 3))
      inputs[i]

/-- Some highway went from UNLOCKED to LOCKED, or from LOCKED to UNLOCKED (R28). -/
def anyGained (before after : Vector Highway 4) : Bool :=
  (List.finRange 4).any fun i => !before[i].locked && after[i].locked

def anyLost (before after : Vector Highway 4) : Bool :=
  (List.finRange 4).any fun i => before[i].locked && !after[i].locked

/-- What timed a tick, from the state before it and the highways after it (R30). -/
def State.nextSource (s : State) (inputs : Vector HighwayInput 4) (after : Vector Highway 4) : TickSource :=
  let r := s.tables.reference
  if s.tables.slave && after[r].locked then
    if s.highway.highways[r].locked && s.judge r inputs then .referencePulse else s.highway.tickSource
  else .internal

/-- The device frame counter's next value (R32). -/
def nextFrame (n : Nat) : Nat :=
  if n + 1 < Config.cycleTicks then n + 1 else 0

/-- Supervision reset (R25): every highway UNLOCKED with its counts at 0 and no record, the tick source internal. -/
def HighwayPort.superviseAfresh (hp : HighwayPort) : HighwayPort :=
  { hp with
    highways :=
      Vector.ofFn fun i =>
        { hp.highways[i] with locked := false, goodCount := 0, badCount := 0, lastPulse := none },
    tickSource := .internal }

end Sys2Proof.Machine
end

