-- ==== Sys2Proof/Machine/TableCommands.lean ====
section
/-! DEFINITION. The four table commands inside a command list (9.4). -/

namespace Sys2Proof.Machine

/-- A Settings entry stored (R150, R151); a change of entry 0 or 1 resets supervision (R25). -/
def State.writeSetting (s : State) (i v : Nat) : State :=
  let stored := clampSetting i v
  { s with
    tables := { s.tables with settings := s.tables.settings.setIfInBounds i stored },
    highway := if i < 2 ∧ stored ≠ s.tables.setting i then s.highway.superviseAfresh else s.highway }

/-- One entry made legal and stored (R52, R150); none where a window entry is refused. -/
def State.writeEntry (s : State) (id : TableId) (i : Nat) (bytes : List Byte) : Option State :=
  let v := entryNumber bytes
  match id with
  | .step =>
    some { s with tables := { s.tables with step := s.tables.step.setIfInBounds i (max 1 (min v 16383)) } }
  | .gain => some { s with tables := { s.tables with gain := s.tables.gain.setIfInBounds i (min v 16383) } }
  | .fade => some { s with tables := { s.tables with fade := s.tables.fade.setIfInBounds i (min v 16383) } }
  | .window =>
    (Window.ofBytes? bytes).map fun w =>
      { s with tables := { s.tables with window := s.tables.window.setIfInBounds i w } }
  | .settings => some (s.writeSetting i v)

/-- How a run of writes ended: the state, the index it rests on, and whether an entry was refused or fell past the end. -/
structure Written where
  state : State
  index : Nat
  result : Result
deriving DecidableEq, Repr

/-- Entries written in order from an index (R169, R170). -/
def State.writeEntries (id : TableId) : List (List Byte) → Nat → State → Written
  | [], i, s => { state := s, index := i, result := .ok }
  | e :: es, i, s =>
    if id.size ≤ i then { state := s, index := i, result := .tableEnd }
    else
      match s.writeEntry id i e with
      | none => { state := s, index := i, result := .badArgument }
      | some s' => State.writeEntries id es (i + 1) s'

/-- The argument bytes as whole entries, one or more (R169). -/
def wholeEntries (id : TableId) (bytes : List Byte) : Option (List (List Byte)) :=
  if bytes ≠ [] ∧ bytes.length % id.entryLength = 0 then
    some (pieces id.entryLength (bytes.length / id.entryLength) bytes)
  else none

/-- Some entry the write would store is of class S (R149, R169): a STEP entry, or SETTINGS entry 0 or 1. -/
def writesClassS (id : TableId) (start : Nat) : Bool :=
  match id with
  | .step => start < id.size
  | .settings => start < 2
  | _ => false

/-- The table cursor moved. -/
def State.withCursor (s : State) (id : TableId) (i : Nat) : State :=
  { s with management := { s.management with cursor := { table := id, index := i } } }

/-- The second and third case of R169, and R170: a write of whole entries from an index. -/
def State.writeFrom (s : State) (id : TableId) (start : Nat) (entries : List (List Byte)) : Reply :=
  if s.management.device ≠ .standby ∧ writesClassS id start then .refuse s .notInStandby
  else
    let w := State.writeEntries id entries start s
    { state := w.state.withCursor id w.index, result := w.result, data := [byte (w.index - start)], restart := false }

/-- WRITE TABLE (R169). -/
def cmdWriteTable (args : List Byte) (s : State) : Reply :=
  match args with
  | t :: start :: rest =>
    match TableId.ofByte? t with
    | none => .refuse s .badArgument
    | some id =>
      if id.size ≤ start.toNat then .refuse s .badArgument
      else
        match wholeEntries id rest with
        | none => .refuse s .badArgument
        | some entries => s.writeFrom id start.toNat entries
  | _ => .refuse s .badArgument

/-- WRITE NEXT (R169). -/
def cmdWriteNext (args : List Byte) (s : State) : Reply :=
  match wholeEntries s.management.cursor.table args with
  | none => .refuse s .badArgument
  | some entries => s.writeFrom s.management.cursor.table s.management.cursor.index entries

/-- How many entries a read returns (R171). -/
def readCount (id : TableId) (start count : Nat) : Nat :=
  min count (id.size - start)

/-- A read of entries from an index (R171). -/
def State.readFrom (s : State) (id : TableId) (start count : Nat) : Reply :=
  let n := readCount id start count
  .ok (s.withCursor id (start + n)) ((List.range n).flatMap fun k => s.tables.entryBytes id (start + k))

/-- The arguments of READ TABLE where they are in range (R171). -/
def readTableArgs? (t start count : Byte) : Option (TableId × Nat × Nat) :=
  match TableId.ofByte? t with
  | none => none
  | some id => if start.toNat < id.size ∧ count ≠ 0 then some (id, start.toNat, count.toNat) else none

/-- READ TABLE (R171). -/
def cmdReadTable (args : List Byte) (s : State) : Reply :=
  match args with
  | [t, start, count] =>
    match readTableArgs? t start count with
    | none => .refuse s .badArgument
    | some (id, i, n) => s.readFrom id i n
  | _ => .refuse s .badArgument

/-- READ NEXT (R171). -/
def cmdReadNext (args : List Byte) (s : State) : Reply :=
  match args with
  | [count] =>
    if count = 0 then .refuse s .badArgument
    else s.readFrom s.management.cursor.table s.management.cursor.index count.toNat
  | _ => .refuse s .badArgument

end Sys2Proof.Machine
end

