-- ==== Sys2Proof/Machine/Control.lean ====
section
/-! DEFINITION. Execution of a CONTROL unit and its RESPONSE (9.1 to 9.3). -/

namespace Sys2Proof.Machine

/-- One command of a list, past the walk and the response space (R161). `last` says that it ends the payload. -/
def Command.run (c : Command) (last : Bool) (args : List Byte) (s : State) : Reply :=
  match c with
  | .identify => cmdIdentify args s
  | .setState => cmdSetState args s
  | .hold => cmdHold args s
  | .release => cmdRelease args s
  | .restart => cmdRestart last args s
  | .openCall => cmdOpen args s
  | .modify => cmdModify args s
  | .close => cmdClose args s
  | .contextReport => cmdContextReport args s
  | .writeTable => cmdWriteTable args s
  | .writeNext => cmdWriteNext args s
  | .readTable => cmdReadTable args s
  | .readNext => cmdReadNext args s
  | .readStatus => cmdReadStatus args s
  | .clearFlags => cmdClearFlags args s
  | .setNoticeMask => cmdSetNoticeMask args s
  | .traceArm => cmdTraceArm args s
  | .traceRead => cmdTraceRead args s

/-- The length of a command's full record (R164, R186): 3 bytes plus the data of its success. A number the computation
needs that is missing or out of range leaves 3. -/
def Command.fullRecord (c : Command) (args : List Byte) (s : State) : Nat :=
  match c with
  | .identify => 16
  | .readStatus => 34
  | .contextReport => 35
  | .writeTable => 4
  | .writeNext => 4
  | .readTable =>
    match args with
    | t :: start :: count :: _ =>
      match readTableArgs? t start count with
      | some (id, i, n) => 3 + readCount id i n * id.entryLength
      | none => 3
    | _ => 3
  | .readNext =>
    match args with
    | count :: _ =>
      3 + readCount s.management.cursor.table s.management.cursor.index count.toNat *
        s.management.cursor.table.entryLength
    | [] => 3
  | .traceRead =>
    match args with
    | offset :: count :: _ =>
      match traceCount? offset count with
      | some n => 7 + 2 * n
      | none => 3
    | _ => 3
  | _ => 3

/-- The full record of a code byte; 3 bytes for one that names no command (R164). -/
def fullRecordOf (code : Byte) (args : List Byte) (s : State) : Nat :=
  match Command.ofCode? code with
  | some c => c.fullRecord args s
  | none => 3

/-- A list under execution: the state so far, the records so far, and whether it held an accepted RESTART. -/
structure ListRun where
  state : State
  records : List Byte
  restart : Bool
deriving DecidableEq, Repr

/-- The code step, the argument step and the execution of one command (R161, R165). -/
def ListRun.command (r : ListRun) (code : Byte) (args : List Byte) (last : Bool) : ListRun :=
  match Command.ofCode? code with
  | none => { r with records := r.records ++ recordBytes code .unknownCommand [] }
  | some c =>
    let reply := c.run last args r.state
    { state := reply.state, records := r.records ++ recordBytes code reply.result reply.data,
      restart := r.restart || reply.restart }

/-- One malformed CONTROL unit counted (R161, R163). -/
def State.countMalformed (s : State) : State :=
  s.count fun c => { c with malformed := countUp c.malformed 1 }

/-- A malformed command ends the list (R163). -/
def ListRun.endMalformed (r : ListRun) (code : Byte) : ListRun :=
  { r with state := r.state.countMalformed, records := r.records ++ recordBytes code .malformed [] }

/-- A command whose full record does not fit ends the list (R164). -/
def ListRun.endTruncated (r : ListRun) (code : Byte) (position : Nat) : ListRun :=
  { r with records := r.records ++ recordBytes code .truncated [byte position] }

/-- The command list (R161 to R166), from the command at `position`, counted from 1. Every command takes at least two
bytes, so the number of bytes bounds the number of turns. -/
def runCommands : Nat → Nat → List Byte → ListRun → ListRun
  | 0, _, _, r => r
  | turns + 1, position, bytes, r =>
    match bytes with
    | [] => r
    | [code] => r.endMalformed code
    | code :: len :: rest =>
      if rest.length < len.toNat then r.endMalformed code
      else if Config.responseRoom < 1 + r.records.length + fullRecordOf code (rest.take len.toNat) r.state then
        r.endTruncated code position
      else
        runCommands turns (position + 1) (rest.drop len.toNat)
          (r.command code (rest.take len.toNat) (rest.drop len.toNat).isEmpty)

/-- The RESPONSE unit (R167). -/
def State.responseUnit (s : State) (seq : Byte) (payload : List Byte) : List Byte :=
  buildUnit
    { label := s.managementLabel, kind := UnitKind.response.code, mode := 0, seq := seq, request := 0, quality := 0,
      length := 0 }
    payload

/-- The RESPONSE built and offered; an accepted RESTART becomes pending on it (R157, R167). -/
def State.respond (s : State) (seq : Byte) (payload : List Byte) (restart : Bool) : State :=
  let bytes := s.responseUnit seq payload
  let s :=
    if restart then { s with management := { s.management with restart := some bytes } } else s
  s.offerResponse bytes restart

/-- The execution of one CONTROL unit (R160, R161): one event. -/
def State.control (s : State) (seq : Byte) (payload : List Byte) : State :=
  match payload with
  | [] => s.countMalformed
  | tag :: list =>
    let r := runCommands list.length 1 list { state := s, records := [], restart := false }
    r.state.respond seq (tag :: r.records) r.restart

/-- A CONTROL unit whose list holds one command. -/
def State.controlOne (s : State) (c : Command) (env : Envelope) (args : List Byte) : State :=
  s.control env.seq (env.tag :: c.code :: byte args.length :: args)

end Sys2Proof.Machine
end

