-- ==== Sys2Proof/Machine/Reset.lean ====
section
/-! DEFINITION. The one reset of the part: its three beginnings and its end (8.5, 8.6). -/

namespace Sys2Proof.Machine

/-- A port whose reception and transmission are abandoned (R155); its hold pin stays as it is. -/
def LinkPort.abandon (p : LinkPort) : LinkPort :=
  { p with reception := .none, sending := none }

/-- The beginning of a reset (R155): the device enters RESET, and everything in progress is abandoned. Receptions and
transmissions stop, the egress queues lose their units (R63, R158), every job in flight is dropped (R102), a pending RESTART
is forgotten, no timeslot and no clock is driven, and the tick owes nothing more. -/
def State.beginReset (s : State) : State :=
  { s with
    management := { s.management with device := .reset, restart := none },
    highway := { s.highway with cycleDue := false, transitions := .none, drivesClocks := false },
    links :=
      { s.links with
        portA := s.links.portA.abandon, portB := s.links.portB.abandon, aToB := [], bToA := [], originated := [] },
    channels := mapVector (fun c => { c with boundaryDue := false, driven := none }) s.channels,
    engine := { queue := [], current := none } }

/-- POWER_UP (R155): supply is applied, and a reset begins. -/
def execPowerUp (s : State) : Host.Outcome State Fault Refusal :=
  .next s.beginReset

/-- PIN_RESET (R155): RESET_N goes low; a reset begins, or the one in progress is extended. -/
def execPinReset (s : State) : Host.Outcome State Fault Refusal :=
  let s := s.beginReset
  .next { s with management := { s.management with resetN := false } }

/-- The end of a reset (R155, R156): RESET_N is high, the straps are sampled, every block holds its reset values, and the
device is STANDBY. The peer hold states follow their pins (log 12), and a unit in the middle of arriving is abandoned (R43). -/
def State.endReset (s : State) (pins : ResetPins) : State :=
  State.afterReset pins s.links.portA.hold s.links.portB.hold s.pending

/-- RESET_END (R155). Outside RESET no reset is there to end. -/
def execResetEnd (pins : ResetPins) (s : State) : Host.Outcome State Fault Refusal :=
  if s.management.device = .reset then .next (s.endReset pins) else .next s

/-- RESTART_DEADLINE (R157): the reset of a pending RESTART begins. -/
def execRestartDeadline (s : State) : Host.Outcome State Fault Refusal :=
  if s.management.restart.isSome then .next s.beginReset else .next s

end Sys2Proof.Machine
end

