-- ==== Sys2Proof/Machine/LinkEvents.lean ====
section
/-! DEFINITION. UNIT_ARRIVAL, the peer holds and TRANSMISSION_COMPLETE (Chapter 3). -/

namespace Sys2Proof.Machine

/-! ## Routing at port A (3.2) -/

/-- One more unclaimed unit (R64). -/
def State.countUnclaimed (s : State) : State :=
  s.count fun c => { c with unclaimed := countUp c.unclaimed 1 }

/-- One more bad-kind unit (R64). -/
def State.countBadKind (s : State) : State :=
  s.count fun c => { c with badKind := countUp c.badKind 1 }

/-- One more closed-context unit (R64). -/
def State.countClosedContext (s : State) : State :=
  s.count fun c => { c with closedContext := countUp c.closedContext 1 }

/-- A SPEECH or SILENCE unit for context `n` (R48). -/
def State.deliverUnit (s : State) (n : Nat) (kind : UnitKind) (h : Header) (payload : List Byte) : State :=
  if (s.channel n).state = .opened then
    s.updateChannel n fun c => c.arrive h.seq (classify kind h payload) h.request h.quality
  else s.countClosedContext

/-- A unit under the management label (R46). -/
def State.routeManagement (s : State) (h : Header) (payload : List Byte) : State :=
  if UnitKind.ofCode? h.kind = some .control then s.control h.seq payload else s.countBadKind

/-- A unit a window claims (R47). -/
def State.routeClaimed (s : State) (n : Nat) (h : Header) (payload : List Byte) : State :=
  if 191 < n then s.countUnclaimed
  else
    match UnitKind.ofCode? h.kind with
    | some .speech => s.deliverUnit n .speech h payload
    | some .silence => s.deliverUnit n .silence h payload
    | _ => s.countBadKind

/-- A unit no window claims (R49). -/
def State.routeForeign (s : State) (bytes : List Byte) : State :=
  if s.management.straps.chainEnd then s.countUnclaimed else s.offerAToB bytes

/-- A unit that passed the check at port A (R46 to R49). -/
def State.routeA (s : State) (bytes : List Byte) (h : Header) (payload : List Byte) : State :=
  if h.label = s.managementLabel then s.routeManagement h payload
  else
    match s.tables.lookup h.label with
    | none => s.routeForeign bytes
    | some n => s.routeClaimed n h payload

/-! ## Arrival (3.1) -/

/-- The reception of a port. -/
def State.reception (s : State) : Port → Reception
  | .a => s.links.portA.reception
  | .b => s.links.portB.reception

/-- The reception at a port has ended (R43). -/
def State.endReception (s : State) : Port → State
  | .a => { s with links := { s.links with portA := { s.links.portA with reception := .none } } }
  | .b => { s with links := { s.links with portB := { s.links.portB with reception := .none } } }

/-- A unit that failed the ingress check (R44). -/
def State.countCheckFailure (s : State) : Port → State
  | .a => s.count fun c => { c with checkFailuresA := countUp c.checkFailuresA 1 }
  | .b => s.count fun c => { c with checkFailuresB := countUp c.checkFailuresB 1 }

/-- A unit that is taken: the ingress check, then its routing (R44, R45). -/
def State.takeUnit (s : State) (port : Port) (bytes : List Byte) : State :=
  match ingress bytes with
  | none => s.countCheckFailure port
  | some (h, payload) =>
    match port with
    | .a => s.routeA bytes h payload
    | .b => s.offerBToA bytes

/-- The end of a reception (R43): an abandoned unit is let go uncounted, and from the next one on units are taken. -/
def State.arrive (s : State) (port : Port) (bytes : List Byte) : State :=
  match s.reception port with
  | .abandoned => s.endReception port
  | .none => s.takeUnit port bytes

/-- UNIT_ARRIVAL (R43). In RESET neither port receives. -/
def execUnitArrival (port : Port) (bytes : List Byte) (s : State) : Host.Outcome State Fault Refusal :=
  if s.management.device = .reset then .next s else .next (s.arrive port bytes)

/-! ## Peer hold (R57) -/

/-- The hold input of a port at a level. -/
def State.withHold (s : State) (port : Port) (level : Bool) : State :=
  match port with
  | .a => { s with links := { s.links with portA := { s.links.portA with hold := level } } }
  | .b => { s with links := { s.links with portB := { s.links.portB with hold := level } } }

/-- The selection of a port (R58, R62). -/
def State.select (s : State) : Port → State
  | .a => s.selectA
  | .b => s.selectB

/-- PEER_HOLD_ASSERTED (R57). In RESET the pin alone moves. -/
def execPeerHoldAsserted (port : Port) (s : State) : Host.Outcome State Fault Refusal :=
  .next (s.withHold port true)

/-- PEER_HOLD_RELEASED (R57). In RESET the pin alone moves. -/
def execPeerHoldReleased (port : Port) (s : State) : Host.Outcome State Fault Refusal :=
  if s.management.device = .reset then .next (s.withHold port false)
  else .next ((s.withHold port false).select port)

/-! ## Transmission (R61) -/

/-- The completion of port A's transmission: counted if the unit came from the originated queue (R64); a pending RESTART's
RESPONSE begins the reset (R157); else the next selection is made. -/
def State.completeA (s : State) (sent : Sending) : State :=
  let s := { s with links := { s.links with portA := { s.links.portA with sending := none } } }
  let s :=
    if sent.origin = .originated then s.count fun c => { c with originatedSent := countUp c.originatedSent 1 } else s
  if sent.restarts ∧ s.management.restart.isSome then s.beginReset else s.selectA

/-- The completion of port B's transmission (R61, R62). -/
def State.completeB (s : State) : State :=
  ({ s with links := { s.links with portB := { s.links.portB with sending := none } } } : State).selectB

/-- A transmission completes (R61), if the port is sending. -/
def State.complete (s : State) (port : Port) : State :=
  match port with
  | .a => match s.links.portA.sending with
    | some sent => s.completeA sent
    | none => s
  | .b => match s.links.portB.sending with
    | some _ => s.completeB
    | none => s

/-- TRANSMISSION_COMPLETE (R61). In RESET nothing is sent. -/
def execTransmissionComplete (port : Port) (s : State) : Host.Outcome State Fault Refusal :=
  if s.management.device = .reset then .next s else .next (s.complete port)

end Sys2Proof.Machine
end

