-- ==== Sys2Proof/Machine/Management.lean ====
section
/-! DEFINITION. The rows of the command catalogue: each is a CONTROL unit whose list holds that one command (9.1, 9.3; log 7).
What the command does stands in the file of its chapter (`cmdIdentify`, ...). In RESET no command is executed (R155). -/

namespace Sys2Proof.Machine

/-- IDENTIFY (R159). -/
def execIdentify (env : Envelope) (args : List Byte) (s : State) : Host.Outcome State Fault Refusal :=
  if s.management.device = .reset then .next s else .next (s.controlOne .identify env args)

/-- SET STATE (R154). -/
def execSetState (env : Envelope) (args : List Byte) (s : State) : Host.Outcome State Fault Refusal :=
  if s.management.device = .reset then .next s else .next (s.controlOne .setState env args)

/-- HOLD (R152). -/
def execHold (env : Envelope) (args : List Byte) (s : State) : Host.Outcome State Fault Refusal :=
  if s.management.device = .reset then .next s else .next (s.controlOne .hold env args)

/-- RELEASE (R152). -/
def execRelease (env : Envelope) (args : List Byte) (s : State) : Host.Outcome State Fault Refusal :=
  if s.management.device = .reset then .next s else .next (s.controlOne .release env args)

/-- RESTART (R157). -/
def execRestart (env : Envelope) (args : List Byte) (s : State) : Host.Outcome State Fault Refusal :=
  if s.management.device = .reset then .next s else .next (s.controlOne .restart env args)

/-- OPEN (R7 to R10). -/
def execOpenCall (env : Envelope) (args : List Byte) (s : State) : Host.Outcome State Fault Refusal :=
  if s.management.device = .reset then .next s else .next (s.controlOne .openCall env args)

/-- MODIFY (R12, R13). -/
def execModify (env : Envelope) (args : List Byte) (s : State) : Host.Outcome State Fault Refusal :=
  if s.management.device = .reset then .next s else .next (s.controlOne .modify env args)

/-- CLOSE (R14). -/
def execClose (env : Envelope) (args : List Byte) (s : State) : Host.Outcome State Fault Refusal :=
  if s.management.device = .reset then .next s else .next (s.controlOne .close env args)

/-- CONTEXT REPORT (R179). -/
def execContextReport (env : Envelope) (args : List Byte) (s : State) : Host.Outcome State Fault Refusal :=
  if s.management.device = .reset then .next s else .next (s.controlOne .contextReport env args)

/-- WRITE TABLE (R169). -/
def execWriteTable (env : Envelope) (args : List Byte) (s : State) : Host.Outcome State Fault Refusal :=
  if s.management.device = .reset then .next s else .next (s.controlOne .writeTable env args)

/-- WRITE NEXT (R169). -/
def execWriteNext (env : Envelope) (args : List Byte) (s : State) : Host.Outcome State Fault Refusal :=
  if s.management.device = .reset then .next s else .next (s.controlOne .writeNext env args)

/-- READ TABLE (R171). -/
def execReadTable (env : Envelope) (args : List Byte) (s : State) : Host.Outcome State Fault Refusal :=
  if s.management.device = .reset then .next s else .next (s.controlOne .readTable env args)

/-- READ NEXT (R171). -/
def execReadNext (env : Envelope) (args : List Byte) (s : State) : Host.Outcome State Fault Refusal :=
  if s.management.device = .reset then .next s else .next (s.controlOne .readNext env args)

/-- READ STATUS (R177). -/
def execReadStatus (env : Envelope) (args : List Byte) (s : State) : Host.Outcome State Fault Refusal :=
  if s.management.device = .reset then .next s else .next (s.controlOne .readStatus env args)

/-- CLEAR FLAGS (R178). -/
def execClearFlags (env : Envelope) (args : List Byte) (s : State) : Host.Outcome State Fault Refusal :=
  if s.management.device = .reset then .next s else .next (s.controlOne .clearFlags env args)

/-- SET NOTICE MASK (R178). -/
def execSetNoticeMask (env : Envelope) (args : List Byte) (s : State) : Host.Outcome State Fault Refusal :=
  if s.management.device = .reset then .next s else .next (s.controlOne .setNoticeMask env args)

/-- TRACE ARM (R180). -/
def execTraceArm (env : Envelope) (args : List Byte) (s : State) : Host.Outcome State Fault Refusal :=
  if s.management.device = .reset then .next s else .next (s.controlOne .traceArm env args)

/-- TRACE READ (R182). -/
def execTraceRead (env : Envelope) (args : List Byte) (s : State) : Host.Outcome State Fault Refusal :=
  if s.management.device = .reset then .next s else .next (s.controlOne .traceRead env args)

end Sys2Proof.Machine
end

