-- ==== Sys2Proof/Machine/Notices.lean ====
section
/-! DEFINITION. NOTICE composition and the device cycle boundary (10.2, R32). -/

namespace Sys2Proof.Machine

/-- The notice payload (R176, R187). -/
def State.noticePayload (s : State) : List Byte :=
  let entries := s.status.healthChanged.take Config.noticeEntries
  [s.status.reported, byte entries.length,
    if Config.noticeEntries < s.status.healthChanged.length then 1 else 0] ++
    entries.flatMap fun n => [byte n, (s.channel n).playout.health.health.toByte]

/-- The NOTICE unit (R176). -/
def State.noticeUnit (s : State) : List Byte :=
  buildUnit
    { label := s.managementLabel, kind := UnitKind.notice.code, mode := 0, seq := s.highway.cycleCounter, request := 0,
      quality := 0, length := 0 }
    s.noticePayload

/-- Composition, if a notice is wanted (R176). -/
def State.composeNotice (s : State) : State :=
  if s.status.noticeWanted then
    ({ s with status := { s.status with noticeWanted := false, healthChanged := [] } } : State).offerNotice s.noticeUnit
  else s

/-- The flag events of the tick's highway transitions that are left to take (R28, R173). -/
def State.takeTransitions (s : State) : State :=
  { s with
    highway := { s.highway with transitions := .none },
    status :=
      ((s.status.raiseIf s.highway.transitions.gained .hwyGain).raiseIf s.highway.transitions.lost .hwyLoss).raiseIf
        s.highway.transitions.holdover .holdover }

/-- The device cycle boundary, if the present tick owes one (R32); else the flag events that a `late` TICK left (R176:
a highway transition may be taken after the composition of its tick; log 3). -/
def State.cycleBoundary (s : State) : State :=
  if s.highway.cycleDue then
    ({ s with
      highway :=
        { s.highway with cycleDue := false, cycleCounter := s.highway.cycleCounter + 1 } } : State).composeNotice
  else s.takeTransitions

end Sys2Proof.Machine
end

