-- ==== Sys2Proof/Machine/Timing.lean ====
section
/-! DEFINITION. TICK, DEVICE_CYCLE_BOUNDARY and CONTEXT_BOUNDARY (Chapter 2). A tick's work is spread over these three
commands, so that the events the manual lets fall together can be taken in any order (log 3). -/

namespace Sys2Proof.Machine

/-- Every boundary the present tick still owes, in the order of context numbers, each with its issues (log 3). -/
def State.boundaries (s : State) : State :=
  (List.range Config.contexts).foldl (fun s n => s.contextBoundary n []) s

/-- What the present tick still owes, done before the next tick (log 3): the cycle boundary, the contexts' boundaries, and
last the flag events left after a cycle boundary. -/
def State.finishTick (s : State) : State :=
  s.cycleBoundary.boundaries.cycleBoundary

/-- What a tick does to one context: a context at its phase owes its boundary, whose transfer at position 0 comes after it
(R33); every other context that is not FREE has its transfer (R34, R35). -/
def Channel.tick (highways : Vector Highway 4) (frameCounter : Nat) (c : Channel) : Channel :=
  if c.state ≠ .free ∧ c.binding.any (fun b => b.phase == frameCounter) then
    { c with boundaryDue := true, driven := none }
  else c.transfer highways frameCounter

/-- The flag events of a tick's judgments: some highway gained lock, some lost it, the SLAVE reference lost it (R28, R31). -/
def State.transitionsTo (s : State) (after : Vector Highway 4) : Transitions :=
  let reference := s.tables.reference
  { gained := anyGained s.highway.highways after,
    lost := anyLost s.highway.highways after,
    holdover := s.tables.slave && s.highway.highways[reference].locked && !after[reference].locked }

/-- One tick up to its flag events (R23 to R36): the judgments, the tick source, the frame counter, the pins, the
transfers. -/
def State.advance (s : State) (inputs : Vector HighwayInput 4) : State :=
  let after := s.judgedHighways inputs
  let counter := nextFrame s.highway.frameCounter
  { s with
    highway :=
      { s.highway with
        highways := after, tickSource := s.nextSource inputs after, frameCounter := counter, cycleDue := counter == 0,
        transitions := s.transitionsTo after, drivesClocks := !s.tables.slave },
    channels := mapVector (Channel.tick after counter) s.channels }

/-- One tick, its flag events taken at once or, with `late`, left for later (R176; log 3). -/
def State.tick (s : State) (input : TickInput) : State :=
  if input.late then s.advance input.highways else (s.advance input.highways).takeTransitions

/-- TICK (R30). In RESET no tick occurs (R29, R155). -/
def execTick (input : TickInput) (s : State) : Host.Outcome State Fault Refusal :=
  if s.management.device = .reset then .next s else .next (s.finishTick.tick input)

/-- DEVICE_CYCLE_BOUNDARY (R32, R176). -/
def execDeviceCycleBoundary (s : State) : Host.Outcome State Fault Refusal :=
  if s.management.device = .reset then .next s else .next s.cycleBoundary

/-- CONTEXT_BOUNDARY (R33). -/
def execContextBoundary (n : Nat) (order : List JobRef) (s : State) : Host.Outcome State Fault Refusal :=
  if s.management.device = .reset then .next s else .next (s.contextBoundary n order)

end Sys2Proof.Machine
end

