-- ==== Sys2Proof/Machine/Dispatch.lean ====
section
/-! DEFINITION. One arm per command. -/

namespace Sys2Proof.Machine

def exec (i : Instr) (s : State) : Host.Outcome State Fault Refusal :=
  match i with
  | .powerUp => Sys2Proof.Machine.execPowerUp s
  | .pinReset => Sys2Proof.Machine.execPinReset s
  | .resetEnd pins => Sys2Proof.Machine.execResetEnd pins s
  | .tick input => Sys2Proof.Machine.execTick input s
  | .deviceCycleBoundary => Sys2Proof.Machine.execDeviceCycleBoundary s
  | .contextBoundary context order => Sys2Proof.Machine.execContextBoundary context order s
  | .unitArrival port bytes => Sys2Proof.Machine.execUnitArrival port bytes s
  | .identify env args => Sys2Proof.Machine.execIdentify env args s
  | .setState env args => Sys2Proof.Machine.execSetState env args s
  | .hold env args => Sys2Proof.Machine.execHold env args s
  | .release env args => Sys2Proof.Machine.execRelease env args s
  | .restart env args => Sys2Proof.Machine.execRestart env args s
  | .openCall env args => Sys2Proof.Machine.execOpenCall env args s
  | .modify env args => Sys2Proof.Machine.execModify env args s
  | .close env args => Sys2Proof.Machine.execClose env args s
  | .contextReport env args => Sys2Proof.Machine.execContextReport env args s
  | .writeTable env args => Sys2Proof.Machine.execWriteTable env args s
  | .writeNext env args => Sys2Proof.Machine.execWriteNext env args s
  | .readTable env args => Sys2Proof.Machine.execReadTable env args s
  | .readNext env args => Sys2Proof.Machine.execReadNext env args s
  | .readStatus env args => Sys2Proof.Machine.execReadStatus env args s
  | .clearFlags env args => Sys2Proof.Machine.execClearFlags env args s
  | .setNoticeMask env args => Sys2Proof.Machine.execSetNoticeMask env args s
  | .traceArm env args => Sys2Proof.Machine.execTraceArm env args s
  | .traceRead env args => Sys2Proof.Machine.execTraceRead env args s
  | .peerHoldAsserted port => Sys2Proof.Machine.execPeerHoldAsserted port s
  | .peerHoldReleased port => Sys2Proof.Machine.execPeerHoldReleased port s
  | .transmissionComplete port => Sys2Proof.Machine.execTransmissionComplete port s
  | .restartDeadline => Sys2Proof.Machine.execRestartDeadline s
  | .decodeCompletion => Sys2Proof.Machine.execDecodeCompletion s
  | .encodeCompletion => Sys2Proof.Machine.execEncodeCompletion s
  | .voidRunEnd => Sys2Proof.Machine.execVoidRunEnd s

end Sys2Proof.Machine
end

