-- ==== Sys2Proof/Safety.lean ====
section
/-! DEFINITION. What counts as a safe outcome, the laws the manual lays down for the state, and the words the statements
use. -/

namespace Sys2Proof.Machine

/-! ## Outcomes -/

/-- A step that goes on. No rule of the manual stops the part, so every outcome of it should be one (log 5). -/
def goesOn (o : Host.Outcome State Fault Refusal) : Prop :=
  ∃ t, o = .next t

/-- A device state other than RESET: STANDBY or OPERATING (R153). -/
abbrev State.running (s : State) : Prop :=
  s.management.device ≠ .reset

/-- The present tick owes nothing more: its device cycle boundary, its context boundaries and the flag events of its highway
transitions have been taken (log 3). -/
structure State.Settled (s : State) : Prop where
  cycle : s.highway.cycleDue = false
  boundaries : ∀ n, (s.channel n).boundaryDue = false
  transitions : s.highway.transitions = .none

/-- The answer to a CONTROL unit whose list held one command: a RESPONSE with that command's record (R162, R167). -/
def State.answer (s : State) (env : Envelope) (c : Command) (result : Result) (data : List Byte) : State :=
  s.respond env.seq (env.tag :: recordBytes c.code result data) false

/-- What flag events do to the status (R173, R174): no flag is cleared, the mask stays, and notice-wanted is set where it was,
or where an unmasked flag has gone from clear to set. -/
structure Status.NoticeFollows (before after : Status) : Prop where
  sticky : ∀ k, before.flags.getLsbD k = true → after.flags.getLsbD k = true
  mask : after.mask = before.mask
  wanted : after.noticeWanted = true ↔
    before.noticeWanted = true ∨
      ∃ k, before.flags.getLsbD k = false ∧ after.flags.getLsbD k = true ∧ before.mask.getLsbD k = false

/-- The state after commands run one after another. -/
def State.follow (s : State) : List Instr → State
  | [] => s
  | c :: cs =>
    match exec c s with
    | .next t => t.follow cs
    | _ => s

/-! ## Well-formed speech -/

/-- A frame as a SPEECH unit carries it (R67): four step indices and 160 codes whose magnitudes fit the mode. -/
structure Frame.WellFormed (f : Frame) : Prop where
  steps : f.steps.length = 4
  codes : f.codes.length = 160
  magnitudes : ∀ c ∈ f.codes, c.mag < f.mode.levels

/-- The frame a job carries, if it carries one (R77). -/
def Work.frame? : Work → Option Frame
  | .frame f => some f
  | .conceal _ f => some f
  | .zero => none
  | .encode _ => none

/-- The frame a playout entry carries, if it carries one (R67). -/
def EntryBody.frame? : EntryBody → Option Frame
  | .speech f => some f
  | .silence => none
  | .damaged => none

/-! ## Laws of the state -/

/-- In STANDBY every context is FREE (R153). -/
def StandbyLaw (s : State) : Prop :=
  s.management.device = .standby → ∀ n, (s.channel n).state = .free

/-- The queues hold what they may hold (R53 to R56, R95). -/
structure QueueLaw (s : State) : Prop where
  aToB : s.links.aToB.length ≤ 64
  bToA : s.links.bToA.length ≤ 64
  originated : s.links.originated.length ≤ 64
  speech : s.links.speechWaiting ≤ 60
  jobs : s.engine.queue.length ≤ 32

/-- A port that is free and READY has nothing waiting, and in RESET nothing waits at all (R58, R62, R155). -/
structure IdlePortLaw (s : State) : Prop where
  portA : s.links.portA.ready = true → s.links.originated = [] ∧ s.links.bToA = []
  portB : s.links.portB.ready = true → s.links.aToB = []
  reset : s.management.device = .reset → s.links.originated = [] ∧ s.links.bToA = [] ∧ s.links.aToB = []

/-- A playout queue: ascending by distance from next_seq, every distance in 0..7, and empty while unanchored (R66, R70). -/
structure Playout.Law (p : Playout) : Prop where
  ascending : p.queue.Pairwise fun a b => distance a.seq p.nextSeq < distance b.seq p.nextSeq
  window : ∀ e ∈ p.queue, distance e.seq p.nextSeq < 8
  unanchored : p.anchored = false → p.queue = []

/-- Every playout queue keeps its law (R66). -/
def PlayoutLaw (s : State) : Prop :=
  ∀ n, (s.channel n).playout.Law

/-- The applied downlink mode and the target mode of a context that is not FREE are members of its allowed set, and a
pending allowed set has a member (R12, R20). -/
structure Channel.ModeLaw (c : Channel) : Prop where
  mode : c.state ≠ .free → c.applied.allowed.has c.applied.mode = true
  target : c.state ≠ .free → c.applied.allowed.has c.applied.target = true
  waiting : ∀ set, c.waiting.allowed = some set → set.nonempty = true

/-- Every context keeps the mode law. -/
def ModeLaw (s : State) : Prop :=
  ∀ n, (s.channel n).ModeLaw

/-- Every stored table value is legal, and the cursor lies in its table or at its end (R52, R116 to R118, R151, R168). -/
structure TableLaw (s : State) : Prop where
  step : ∀ i (h : i < 48), 1 ≤ s.tables.step[i] ∧ s.tables.step[i] ≤ 16383
  gain : ∀ i (h : i < 32), s.tables.gain[i] ≤ 16383
  fade : ∀ i (h : i < 6), s.tables.fade[i] ≤ 16383
  window : ∀ i (h : i < 32), s.tables.window[i].base.toNat ≤ s.tables.window[i].limit.toNat ∧ s.tables.window[i].first ≤ 191
  settings : ∀ i (h : i < 8), clampSetting i s.tables.settings[i] = s.tables.settings[i]
  cursor : s.management.cursor.index ≤ s.management.cursor.table.size

/-- A context is bound exactly while it is not FREE, its phase lies in 0..159 and its target depth in 1..6, no two contexts
share a timeslot, and at most 8 share a phase (R3, R4). -/
structure BindingLaw (s : State) : Prop where
  bound : ∀ n, (s.channel n).binding.isSome = true ↔ (s.channel n).state ≠ .free
  phase : ∀ n b, (s.channel n).binding = some b → b.phase < 160 ∧ 1 ≤ b.depth ∧ b.depth ≤ 6
  timeslot : ∀ n m b d, (s.channel n).binding = some b → (s.channel m).binding = some d →
    b.highway = d.highway → b.timeslot = d.timeslot → n = m
  share : ∀ p, s.countBound (fun b => b.phase == p) ≤ 8

/-- Jobs in flight that are not void: at most one for each context and kind (R96), each of the context's present generation
and of a context that is not FREE (R103). -/
structure JobLaw (s : State) : Prop where
  single : ∀ r : JobRef, s.engine.liveCount (fun j => j.matches r) ≤ 1
  delivers : ∀ j ∈ s.engine.inFlight, j.void = false → s.delivers j = true

/-- Every predictor the part holds is a 16-bit sample (R108): in the codec records and in the run in progress. -/
structure PredictorLaw (s : State) : Prop where
  codec : ∀ n, inSampleRange (s.channel n).codec.decoder ∧ inSampleRange (s.channel n).codec.encoder.predictor
  run : ∀ r, s.engine.current = some r → inSampleRange r.codec.decoder ∧ inSampleRange r.codec.encoder.predictor

/-- The health-change list is a set of context numbers, kept in ascending order (R175). -/
structure HealthListLaw (s : State) : Prop where
  ascending : s.status.healthChanged.Pairwise (· < ·)
  contexts : ∀ n ∈ s.status.healthChanged, n < 192

/-- The frame counter lies in 0..159; a tick owes a device cycle boundary only at 0, and a boundary only to a context that is
not FREE and at whose phase the counter stands (R32, R33). -/
structure TimingLaw (s : State) : Prop where
  frame : s.highway.frameCounter < 160
  cycle : s.highway.cycleDue = true → s.highway.frameCounter = 0
  boundary : ∀ n, (s.channel n).boundaryDue = true →
    (s.channel n).state ≠ .free ∧ ∃ b, (s.channel n).binding = some b ∧ b.phase = s.highway.frameCounter

/-- Every frame the part holds is well formed, every buffer in use and every collection a run reads holds 160 codes, and a
FILLED trace holds exactly 160 samples (R67, R77, R180, Chapter 2's buffers). -/
structure SpeechDataLaw (s : State) : Prop where
  queued : ∀ n, ∀ e ∈ (s.channel n).playout.queue, ∀ f, e.body.frame? = some f → f.WellFormed
  lastGood : ∀ n f, (s.channel n).playout.lastGood = some f → f.WellFormed
  jobs : ∀ j ∈ s.engine.inFlight, ∀ f, j.work.frame? = some f → f.WellFormed
  buffers : ∀ n, (s.channel n).state ≠ .free →
    (s.channel n).buffers.playing.length = 160 ∧ (s.channel n).buffers.next.length = 160 ∧
      (s.channel n).buffers.firstBank.length = 160 ∧ (s.channel n).buffers.secondBank.length = 160
  run : ∀ r w, s.engine.current = some r → r.job.work = .encode w → r.collected.length = 160
  trace : ∀ a samples, s.trace = .filled a samples → samples.length = 160

/-- No counter of the Status Unit passes 65535, and no run or count of a playout record or a highway passes 255 (R27, R64,
R78, R83, R87, R91, R107). -/
structure CounterLaw (s : State) : Prop where
  device : ∀ k ∈ s.status.counters.toList, k ≤ 65535
  context : ∀ n, ∀ k ∈ (s.channel n).counters.toList, k ≤ 65535
  playout : ∀ n, (s.channel n).playout.primingCount ≤ 255 ∧ (s.channel n).playout.lossCount ≤ 255 ∧
    (s.channel n).playout.health.goodRun ≤ 255 ∧ (s.channel n).playout.health.lostRun ≤ 255
  highway : ∀ i : Fin 4, s.highway.highways[i].goodCount ≤ 255 ∧ s.highway.highways[i].badCount ≤ 255

end Sys2Proof.Machine
end

