-- ==== Sys2Proof/Certificates/Slice0/Obligations.lean ====
section
/-! DEFINITION. The statements for the provers. A next state is written as the state before with the fields that change, so
each equation says the result, the completion and the frame at once. `State.answer` (Safety.lean) is the state after a
one-command RESPONSE has been offered; `AnswerIsOneRecordResponse` says what that unit is. -/

open Sys2Proof Sys2Proof.Machine

/-! ## The whole machine -/

/-- The step runs the command at the front of the queue with the queue's rest; with no command waiting the part idles (the
model's choice, log 8). -/
def Obligations.StepRunsFrontCommand : Prop :=
  (∀ (c : Instr) (rest : List Instr) (s : State), s.pending = c :: rest → step s = exec c { s with pending := rest }) ∧
  ∀ s : State, s.pending = [] → step s = .next s

/-- No command stops the part, and no command touches the queue of waiting commands. That a command with no place in the
present state changes nothing, and is no fault, is the model's choice (log 5). -/
def Obligations.EveryCommandGoesOn : Prop :=
  ∀ (c : Instr) (s : State), ∃ t, exec c s = .next t ∧ t.pending = s.pending

/-! ## Reset (8.5, 8.6) -/

/-- The three beginnings of a reset abandon everything in progress and leave the transmit and clock pins undriven (8.5).
That tables, status, trace, staging hold, counters and context records keep their values until the end of the reset is the
model's choice (log 11), and so is that the peer hold levels stay (log 12): 8.5 says only what holds at the end of a reset.
RESTART_DEADLINE begins one where a RESTART is pending and does nothing elsewhere (log 5). In RESET no tick occurs, nothing
is received, sent or executed: every command but the resets' own and the hold pins changes nothing (8.5). -/
def Obligations.ResetsAbandonWorkAndStopThePart : Prop :=
  ((∀ (s : State) (c : Instr),
     c = .powerUp ∨ c = .pinReset ∨ (c = .restartDeadline ∧ s.management.restart.isSome = true) →
     ∃ t, exec c s = .next t ∧
       t.management =
         { s.management with
           device := .reset, restart := none, resetN := if c = .pinReset then false else s.management.resetN } ∧
       t.highway = { s.highway with cycleDue := false, transitions := .none, drivesClocks := false } ∧
       t.links =
         { portA := { reception := .none, sending := none, hold := s.links.portA.hold },
           portB := { reception := .none, sending := none, hold := s.links.portB.hold },
           aToB := [], bToA := [], originated := [], lastServed := s.links.lastServed } ∧
       t.engine = { queue := [], current := none } ∧
       (∀ n, t.channel n = { s.channel n with boundaryDue := false, driven := none }) ∧
       t.tables = s.tables ∧ t.stagingHold = s.stagingHold ∧ t.status = s.status ∧ t.trace = s.trace ∧
       t.pending = s.pending) ∧
   ∀ s : State, s.management.restart = none → exec .restartDeadline s = .next s) ∧
  (∀ (c : Instr) (s : State), s.management.device = .reset → c ≠ .powerUp → c ≠ .pinReset → c ≠ .restartDeadline →
     (∀ pins, c ≠ .resetEnd pins) → (∀ port, c ≠ .peerHoldAsserted port) → (∀ port, c ≠ .peerHoldReleased port) →
     exec c s = .next s)

/-- The end of a reset samples the straps and gives every block its reset values (8.5 and each chapter's reset values), the
eleven counters of every context included; a unit in the middle of arriving is abandoned (3.1). Left out, because the manual
gives them no value (log 2): the applied settings of a FREE context, the receive frames before the first tick and the codes
of buffers out of use. That the trace forgets its last arming is the model's choice (log 2), and so is that the peer hold
levels outlive the reset (log 12). `State.reset` is what RESET_END leaves when every strap is sampled low, no unit is in the
middle of arriving, neither peer holds and nothing waits; the levels are the model's choice (log 1). Outside RESET there is
no reset to end, and RESET_END does nothing (log 5). -/
def Obligations.ResetEndGivesResetValues : Prop :=
  (∀ (pins : ResetPins) (s : State), s.management.device = .reset →
     ∃ t, exec (.resetEnd pins) s = .next t ∧
       t.management =
         { device := .standby, straps := pins.straps, restart := none, cursor := { table := .step, index := 0 },
           resetN := true } ∧
       (∀ i : Fin 4,
         t.highway.highways[i].locked = false ∧ t.highway.highways[i].goodCount = 0 ∧
           t.highway.highways[i].badCount = 0 ∧ t.highway.highways[i].lastPulse = none) ∧
       t.highway.tickSource = .internal ∧ t.highway.frameCounter = 0 ∧ t.highway.cycleCounter = 0 ∧
       t.highway.cycleDue = false ∧ t.highway.transitions = .none ∧ t.highway.drivesClocks = pins.straps.hwyRole ∧
       t.links =
         { portA :=
             { reception := if pins.arrivingA then .abandoned else .none, sending := none, hold := s.links.portA.hold },
           portB :=
             { reception := if pins.arrivingB then .abandoned else .none, sending := none, hold := s.links.portB.hold },
           aToB := [], bToA := [], originated := [], lastServed := .passThrough } ∧
       (∀ i : Fin 48, t.tables.step[i] = (4 + i.val % 4) * 2 ^ (i.val / 4)) ∧
       (∀ i : Fin 32, t.tables.gain[i] = 4096) ∧
       t.tables.fade = #v[4096, 3072, 2048, 1024, 512, 256] ∧
       (∀ i : Fin 32, t.tables.window[i] = { valid := false, base := 0, limit := 0, first := 0 }) ∧
       t.tables.settings = #v[if pins.straps.hwyRole then 0 else 1, 0, 4, 3, 3, 4, 3, 4] ∧
       t.stagingHold = false ∧
       (∀ n, (t.channel n).state = .free ∧ (t.channel n).generation = 0 ∧ (t.channel n).binding = none ∧
         (t.channel n).waiting = PendingRecord.empty ∧ (t.channel n).firstBoundary = false ∧
         (t.channel n).boundaryDue = false ∧ (t.channel n).driven = none ∧
         (t.channel n).playout =
           { queue := [], nextSeq := 0, anchored := false, state := .priming, primingCount := 0, lossCount := 0,
             lastGood := none, silentGap := 0, health := { health := .absent, goodRun := 0, lostRun := 0 },
             lastQuality := 15, minQuality := 15 } ∧
         (t.channel n).codec =
           { decoder := 0,
             encoder := { predictor := 0, suppression := .speaking, silenceRun := 0, refresh := 0, seq := 0 } } ∧
         (t.channel n).buffers.filled = false ∧ (t.channel n).counters.toList = List.replicate 11 0) ∧
       t.engine = { queue := [], current := none } ∧
       t.status.flags = 0 ∧ t.status.mask = 0xFF ∧ t.status.noticeWanted = false ∧ t.status.healthChanged = [] ∧
       t.status.counters.toList = List.replicate 12 0 ∧
       t.trace = .idle none false ∧ t.pending = s.pending) ∧
  ((∀ s : State, s.management.device = .reset → s.links.portA.hold = false → s.links.portB.hold = false →
     s.pending = [] →
     exec
         (.resetEnd
           { straps := { mgsel := 0, chainEnd := false, hwyRole := false }, arrivingA := false, arrivingB := false }) s =
       .next State.reset) ∧
   ∀ (pins : ResetPins) (s : State), s.running → exec (.resetEnd pins) s = .next s)

/-! ## Highways and frame timing (Chapter 2) -/

/-- A tick of a part that owes nothing: the frame counter steps, a wrap makes the device cycle boundary due, and every bound
context either owes its boundary (at its phase) or has its sample transfer: the code at its position driven, and, past its
first boundary, one code collected: of timeslot t, bits 8t to 8t+7 of the receive frame, most significant first (2.1). The
transmit frame: bits 8t to 8t+7 are the driven code of the context bound to timeslot t, and a timeslot that no context is
bound to is high impedance (2.1, 2.4). That a boundary's own transfer waits for CONTEXT_BOUNDARY is the model's choice, and so
is what a TICK does first where work is still owed: the cycle boundary, the contexts' boundaries in order of number, each with
its issues, the flag events left over (log 3, log 4). -/
def Obligations.TickCountsAndTransfers : Prop :=
  (∀ (input : TickInput) (s : State), s.running → s.Settled →
    ∃ t, exec (.tick input) s = .next t ∧
      t.highway.frameCounter = (if s.highway.frameCounter + 1 < 160 then s.highway.frameCounter + 1 else 0) ∧
      t.highway.cycleDue = (t.highway.frameCounter == 0) ∧
      t.highway.cycleCounter = s.highway.cycleCounter ∧
      t.highway.drivesClocks = (s.tables.setting 0 != 1) ∧
      (∀ i : Fin 4, t.highway.highways[i].received = input.highways[i].frame) ∧
      (∀ n, (s.channel n).state = .free → t.channel n = { s.channel n with driven := none }) ∧
      (∀ n b, (s.channel n).state ≠ .free → (s.channel n).binding = some b → b.phase = t.highway.frameCounter →
        t.channel n = { s.channel n with boundaryDue := true, driven := none }) ∧
      (∀ (n : Nat) (b : Binding) (at_ : Nat) (sent code : Byte), (s.channel n).state ≠ .free →
        (s.channel n).binding = some b → b.phase ≠ t.highway.frameCounter →
        at_ = (t.highway.frameCounter + 160 - b.phase) % 160 →
        (∀ k, k < 8 → sent.getMsbD k = input.highways[b.highway].frame.getMsbD (8 * b.timeslot.val + k)) →
        code = (if t.highway.highways[b.highway].locked then sent else b.law.idle) →
        (t.channel n).buffers =
            (if (s.channel n).firstBoundary then (s.channel n).buffers
             else
              match (s.channel n).buffers.bank with
              | .first =>
                { (s.channel n).buffers with firstBank := (s.channel n).buffers.firstBank.set at_ code }
              | .second =>
                { (s.channel n).buffers with secondBank := (s.channel n).buffers.secondBank.set at_ code }) ∧
          (∀ drivenCode, (s.channel n).buffers.playing[at_]? = some drivenCode →
            (t.channel n).driven = some drivenCode) ∧
          t.channel n =
            { s.channel n with buffers := (t.channel n).buffers, driven := (t.channel n).driven }) ∧
      t.management = s.management ∧ t.links = s.links ∧ t.tables = s.tables ∧ t.stagingHold = s.stagingHold ∧
      t.engine = s.engine ∧ t.trace = s.trace ∧ t.pending = s.pending ∧
      t.status.counters = s.status.counters ∧ t.status.mask = s.status.mask ∧
      t.status.healthChanged = s.status.healthChanged) ∧
  (∀ (input : TickInput) (s u v : State), s.running →
    u = s.follow (.deviceCycleBoundary :: (List.range 192).map fun n => .contextBoundary n []) →
    v = u.follow [.deviceCycleBoundary] →
    v.Settled ∧ v.running ∧ exec (.tick input) s = exec (.tick input) v) ∧
  ∀ (s : State) (highway : Fin 4) (slot : Fin 64) (k : Nat) (i : Fin 512), BindingLaw s → k < 8 → i.val = 8 * slot.val + k →
    (s.transmitFrame highway)[i] = s.transmitBit highway i ∧
    (∀ n b, (s.channel n).binding = some b → b.highway = highway → b.timeslot = slot →
      s.transmitBit highway i = (s.channel n).driven.map fun code => code.getMsbD k) ∧
    ((∀ n b, (s.channel n).binding = some b → b.highway = highway → b.timeslot ≠ slot) →
      s.transmitBit highway i = none)

/-- R27: a good judgment counts up the good count and clears the bad count, a bad judgment the other way round, and both
stop at 255. `State.judge` is the judgment (`JudgmentTable`). -/
def Obligations.JudgmentsMoveBothCounts : Prop :=
  ∀ (input : TickInput) (s : State) (i : Fin 4), s.running →
    ∃ t, exec (.tick input) s = .next t ∧
      (s.judge i input.highways = true →
        t.highway.highways[i].goodCount = min 255 (s.highway.highways[i].goodCount + 1) ∧
          t.highway.highways[i].badCount = 0) ∧
      (s.judge i input.highways = false →
        t.highway.highways[i].badCount = min 255 (s.highway.highways[i].badCount + 1) ∧
          t.highway.highways[i].goodCount = 0)

/-- What counts as a good judgment (2.2), and what the record keeps. A LOCKED reference and the other highways are judged at
512 bit periods, the start of a nominal frame; an UNLOCKED reference by its own rhythm. From the lock of the reference to the
first tick its pulse times (2.3), a tick may end at that pulse in place of the nominal 512 (`retimed`): the pulse is then good,
and the other highways are judged at the end of their own interval. When a pulse may do so is the model's inference (log 6):
it is the interval's only one, stands at its end and lies 512 bit periods after the recorded one. -/
def Obligations.JudgmentTable : Prop :=
  (∀ (s : State) (i : Fin 4) (inputs : Vector HighwayInput 4) (span : Nat) (retimed : Prop),
    span = inputs[s.tables.reference].span →
    (retimed ↔
      s.tables.setting 0 = 1 ∧ s.referenceHighway.locked = true ∧ s.highway.tickSource = .internal ∧
        inputs[s.tables.reference].pulses = [span] ∧ ∃ r, s.referenceHighway.lastPulse = some r ∧ r + span = 512) →
    (s.tables.setting 0 ≠ 1 → s.judge i inputs = true) ∧
    (s.tables.setting 0 = 1 → i = s.tables.reference → s.highway.highways[i].locked = false →
      (s.judge i inputs = true ↔
        ∃ r p, s.highway.highways[i].lastPulse = some r ∧ inputs[i].pulses = [p] ∧ r + p = 512)) ∧
    (s.tables.setting 0 = 1 → i = s.tables.reference → s.highway.highways[i].locked = true →
      (s.judge i inputs = true ↔ inputs[i].pulses = [512] ∨ retimed)) ∧
    (s.tables.setting 0 = 1 → i ≠ s.tables.reference → ¬retimed →
      (s.judge i inputs = true ↔ inputs[i].pulses = [512])) ∧
    (s.tables.setting 0 = 1 → i ≠ s.tables.reference → retimed →
      (s.judge i inputs = true ↔ inputs[i].pulses = [inputs[i].span]))) ∧
  ∀ (input : TickInput) (s : State) (i : Fin 4), s.running →
    ∃ t, exec (.tick input) s = .next t ∧
      t.highway.highways[i].lastPulse = input.highways[i].pulses.getLast?.map fun p => input.highways[i].span - p

/-- The lock thresholds (2.2) and the flags their transitions set, with notice-wanted where an unmasked flag goes from clear
to set (2.2, 2.3, 10.1), and what times the tick from then on (2.3; for the tick of a lock itself the model's inference,
log 6). A TICK sent as late leaves the flag events for a later moment of the tick, which DEVICE_CYCLE_BOUNDARY takes
(10.2 lets the composition come first; the form is the model's, log 3). -/
def Obligations.LockTransitionsAndFlags : Prop :=
  ∀ (input : TickInput) (s : State) (nIn nOut : Nat), s.running → s.Settled →
    [1, 2, 4, 8, 16, 32, 64, 128][s.tables.setting 2]? = some nIn →
    [1, 2, 4, 8, 16, 32, 64, 128][s.tables.setting 3]? = some nOut →
    ∃ t, exec (.tick input) s = .next t ∧
      (∀ i : Fin 4,
        (s.highway.highways[i].locked = false →
          (t.highway.highways[i].locked = true ↔ nIn ≤ t.highway.highways[i].goodCount)) ∧
        (s.highway.highways[i].locked = true →
          (t.highway.highways[i].locked = false ↔ nOut ≤ t.highway.highways[i].badCount))) ∧
      (∀ lost gained holdover : Prop,
        (lost ↔ ∃ i : Fin 4, s.highway.highways[i].locked = true ∧ t.highway.highways[i].locked = false) →
        (gained ↔ ∃ i : Fin 4, s.highway.highways[i].locked = false ∧ t.highway.highways[i].locked = true) →
        (holdover ↔
          s.tables.setting 0 = 1 ∧ s.referenceHighway.locked = true ∧ t.referenceHighway.locked = false) →
        (input.late = false →
          (t.status.flags.getLsbD 0 = true ↔ s.status.flags.getLsbD 0 = true ∨ lost) ∧
          (t.status.flags.getLsbD 1 = true ↔ s.status.flags.getLsbD 1 = true ∨ gained) ∧
          (t.status.flags.getLsbD 2 = true ↔ s.status.flags.getLsbD 2 = true ∨ holdover) ∧
          (∀ k, 3 ≤ k → t.status.flags.getLsbD k = s.status.flags.getLsbD k) ∧
          s.status.NoticeFollows t.status ∧ t.highway.transitions = .none) ∧
        (input.late = true →
          t.status = s.status ∧ (t.highway.transitions.lost = true ↔ lost) ∧
          (t.highway.transitions.gained = true ↔ gained) ∧ (t.highway.transitions.holdover = true ↔ holdover))) ∧
      (t.highway.tickSource =
        if s.tables.setting 0 = 1 ∧ t.referenceHighway.locked = true then
          if s.referenceHighway.locked = true ∧ s.judge s.tables.reference input.highways = true then
            .referencePulse
          else s.highway.tickSource
        else .internal)

/-- The device cycle boundary (2.3, 10.2): the cycle counter steps, and a wanted NOTICE is composed of the unmasked flags and
the first 48 numbers of the health-change list, then offered; notice-wanted and the list are cleared. Where no boundary is
owed, the command takes the flag events that a late TICK left, so that they come after the composition of their tick (10.2),
and with none left it does nothing (the form is the model's choice, log 3). -/
def Obligations.DeviceCycleBoundaryComposesNotice : Prop :=
  ∀ s : State, s.running →
    (s.highway.cycleDue = false →
      exec .deviceCycleBoundary s =
        .next
          { s with
            highway := { s.highway with transitions := .none },
            status :=
              ((s.status.raiseIf s.highway.transitions.gained .hwyGain).raiseIf s.highway.transitions.lost .hwyLoss).raiseIf
                s.highway.transitions.holdover .holdover }) ∧
    (s.highway.cycleDue = false → s.highway.transitions = .none → exec .deviceCycleBoundary s = .next s) ∧
    (s.highway.cycleDue = true → s.status.noticeWanted = false →
      exec .deviceCycleBoundary s =
        .next
          { s with
            highway := { s.highway with cycleDue := false, cycleCounter := s.highway.cycleCounter + 1 } }) ∧
    (s.highway.cycleDue = true → s.status.noticeWanted = true →
      ∀ (entries : List Nat) (payload front : List Byte),
        entries = s.status.healthChanged.take 48 →
        payload =
          [s.status.flags &&& ~~~s.status.mask, BitVec.ofNat 8 entries.length,
            if 48 < s.status.healthChanged.length then 1 else 0] ++
          entries.flatMap (fun n =>
            [BitVec.ofNat 8 n, if (s.channel n).playout.health.health = .present then 1 else 0]) →
        front =
          [0xFF, BitVec.ofNat 8 (0xF0 + s.management.straps.mgsel.toNat), 0x50, s.highway.cycleCounter + 1, 0x00,
            BitVec.ofNat 8 payload.length] →
        exec .deviceCycleBoundary s =
          .next
            (({ s with
                highway := { s.highway with cycleDue := false, cycleCounter := s.highway.cycleCounter + 1 },
                status := { s.status with noticeWanted := false, healthChanged := [] } } : State).offerNotice
              (front ++ [crc8 front] ++ payload)))

/-! ## The boundary of a context (1.6, 1.7, 2.5, 4.3, 5.3) -/

/-- The settings application at a boundary (1.7): with the staging hold clear the pending record moves into the applied
settings, target and mode are resolved against the set, and the mode steps toward the target; with the hold set nothing of it
happens. The first-boundary mark is cleared, and no other context changes. -/
def Obligations.BoundaryAppliesSettings : Prop :=
  ∀ (s : State) (n : Nat) (b : Binding) (c : Channel), s.running → c = s.channel n → c.boundaryDue = true →
    c.state = .opened → c.binding = some b →
    ∃ t, exec (.contextBoundary n []) s = .next t ∧
      (s.stagingHold = true → (t.channel n).applied = c.applied ∧ (t.channel n).waiting = c.waiting) ∧
      (s.stagingHold = false →
        (t.channel n).waiting = PendingRecord.empty ∧
        ∀ allowed target mode, allowed = c.waiting.allowed.getD c.applied.allowed →
          target = allowed.resolve (c.waiting.target.getD c.applied.target).width →
          mode = allowed.resolve c.applied.mode.width →
          (t.channel n).applied =
            { allowed := allowed, target := target, mode := allowed.stepToward mode target,
              preference := c.waiting.preference.getD c.applied.preference,
              uplinkGain := c.waiting.uplinkGain.getD c.applied.uplinkGain,
              downlinkGain := c.waiting.downlinkGain.getD c.applied.downlinkGain,
              followRequests := c.waiting.followRequests.getD c.applied.followRequests,
              suppression := c.waiting.suppression.getD c.applied.suppression,
              threshold := c.waiting.threshold.getD c.applied.threshold }) ∧
      (t.channel n).codec =
        (if s.stagingHold = false ∧ c.applied.suppression = true ∧ (t.channel n).applied.suppression = false then
          { c.codec with
            encoder := { c.codec.encoder with suppression := .speaking, silenceRun := 0, refresh := 0 } }
         else c.codec) ∧
      (t.channel n).state = .opened ∧ (t.channel n).generation = c.generation ∧ (t.channel n).binding = some b ∧
      (t.channel n).firstBoundary = false ∧ (t.channel n).boundaryDue = false ∧
      (∀ m, m ≠ n → t.channel m = s.channel m) ∧
      t.management = s.management ∧ t.highway = s.highway ∧ t.links = s.links ∧ t.tables = s.tables ∧
      t.stagingHold = s.stagingHold ∧ t.trace = s.trace ∧ t.pending = s.pending

/-- The buffers at a boundary (2.4, 2.5): a filled next buffer goes into play, an unfilled one leaves 160 idle codes; past the
first boundary the collection buffers change roles; then the transfer of position 0 collects one code and drives one. That
this transfer is part of CONTEXT_BOUNDARY and not of TICK is the model's choice (log 3; 2.3 puts it after the boundary). -/
def Obligations.BoundaryExchangesBuffers : Prop :=
  ∀ (s : State) (n : Nat) (b : Binding) (c : Channel) (bank : Bank) (sent code : Byte), s.running → c = s.channel n →
    c.boundaryDue = true → c.state = .opened → c.binding = some b → b.phase = s.highway.frameCounter →
    b.phase < 160 →
    bank = (if c.firstBoundary then c.buffers.bank else c.buffers.bank.other) →
    (∀ k, k < 8 → sent.getMsbD k = s.highway.highways[b.highway].received.getMsbD (8 * b.timeslot.val + k)) →
    code = (if s.highway.highways[b.highway].locked then sent else b.law.idle) →
    ∃ t, exec (.contextBoundary n []) s = .next t ∧
      (t.channel n).buffers =
        { playing := if c.buffers.filled then c.buffers.next else List.replicate 160 b.law.idle,
          next := if c.buffers.filled then c.buffers.playing else c.buffers.next,
          filled := false,
          firstBank := if bank = .first then c.buffers.firstBank.set 0 code else c.buffers.firstBank,
          secondBank := if bank = .second then c.buffers.secondBank.set 0 code else c.buffers.secondBank,
          bank := bank } ∧
      ∀ drivenCode, (t.channel n).buffers.playing[0]? = some drivenCode → (t.channel n).driven = some drivenCode

/-- The issues of a boundary (4.3, 5.2, 5.3, 7.1): a DECODE of the decision's source and, past the first boundary, an ENCODE of
the handed-over buffer, each with what it captures. The boundary's other work (`State.boundary`) leaves the engine, the
engine-late counter and flag 5 alone; each issue is then one event (`State.issueJob`, which `IssuedJobsArePlacedAndTaken`
says), in either order (5.3; the order is the command's operand, log 4). All together where the engine is busy: every job of
the same kinds still in flight is voided, the queue takes what it has room for, and every voided or refused job is counted,
with ENGINE-LATE, and notice-wanted where an unmasked flag goes from clear to set (10.1). -/
def Obligations.BoundaryIssuesJobs : Prop :=
  ∀ (s : State) (n : Nat) (b : Binding) (c : Channel), s.running → c = s.channel n → c.boundaryDue = true →
    c.state = .opened → c.binding = some b → c.counters.engineLate ≤ 65535 →
    ∃ t, exec (.contextBoundary n []) s = .next t ∧ ∀ decode encode : Job,
      decode =
        { context := n, generation := c.generation, work := (c.playout.decide b.depth (s.tables.setting 7)).work,
          law := b.law, gain := (t.channel n).applied.uplinkGain, void := false } →
      encode =
        { context := n, generation := c.generation,
          work :=
            .encode
              { bank := c.buffers.bank, mode := (t.channel n).applied.mode,
                suppression := (t.channel n).applied.suppression, threshold := (t.channel n).applied.threshold,
                preference := (t.channel n).applied.preference, label := b.label },
          law := b.law, gain := (t.channel n).applied.downlinkGain, void := false } →
      decode.work.kind = .decode ∧ s.boundaryJobs n = (if c.firstBoundary then [decode] else [decode, encode]) ∧
      (c.firstBoundary = true → t = (s.boundary n).issueJob decode) ∧
      (c.firstBoundary = false →
        t = ((s.boundary n).issueJob decode).issueJob encode ∧
        exec (.contextBoundary n [{ context := n, kind := .decode }, { context := n, kind := .encode }]) s = .next t ∧
        exec (.contextBoundary n [{ context := n, kind := .encode }]) s =
          .next (((s.boundary n).issueJob encode).issueJob decode)) ∧
      (s.boundary n).engine = s.engine ∧
      ((s.boundary n).channel n).counters.engineLate = c.counters.engineLate ∧
      (s.boundary n).status.flags.getLsbD 5 = s.status.flags.getLsbD 5 ∧ s.status.NoticeFollows t.status ∧
      ∀ (r : Run) (mine : Job → Bool) (issued : List Job) (late : Nat), s.engine.current = some r →
        (∀ j, mine j = (j.context == n && (j.work.kind == .decode || !c.firstBoundary))) →
        issued = (if c.firstBoundary then [decode] else [decode, encode]) →
        late =
          s.engine.inFlight.countP (fun j => mine j && !j.void) +
            (issued.length - (32 - s.engine.queue.length)) →
        t.engine =
          { queue :=
              s.engine.queue.map (fun j => if mine j then { j with void := true } else j) ++
                issued.take (32 - s.engine.queue.length),
            current := some (if mine r.job then { r with job := { r.job with void := true } } else r) } ∧
        (t.channel n).counters.engineLate = min 65535 (c.counters.engineLate + late) ∧
        t.status.flags.getLsbD 5 = (s.status.flags.getLsbD 5 || late != 0)

/-- The playout decision of a boundary (4.3 to 4.5) is taken on the record as it stands, with the priming limit of the
Settings Table; its frame is recorded for health with the thresholds of the Settings Table, its counter counts, and a health
transition sets its flag, with notice-wanted where an unmasked flag goes from clear to set, and joins the health-change
list. `PlayoutDecisionTable` says what the decision is. The health record
(4.4): runs that stop at 255, PRESENT at the good frame that brings the good run to N_good, ABSENT at the lost frame that
brings the lost run to N_lost, and no change where nothing is recorded. -/
def Obligations.BoundaryDecidesAndRecordsHealth : Prop :=
  (∀ (s : State) (n : Nat) (b : Binding) (c : Channel) (d : Decision) (nGood nLost : Nat), s.running →
     c = s.channel n → c.boundaryDue = true → c.state = .opened → c.binding = some b →
     d = c.playout.decide b.depth (s.tables.setting 7) →
     [1, 2, 3, 5, 10, 20, 50, 100][s.tables.setting 4]? = some nGood →
     [1, 2, 3, 5, 10, 20, 50, 100][s.tables.setting 5]? = some nLost →
     ∃ t, exec (.contextBoundary n []) s = .next t ∧
       (t.channel n).playout =
         { d.playout with health := c.playout.health.record nGood nLost d.recorded } ∧
       (t.channel n).counters =
         { c.counters with
           good := if d.counted = .good then min 65535 (c.counters.good + 1) else c.counters.good,
           damaged := if d.counted = .damaged then min 65535 (c.counters.damaged + 1) else c.counters.damaged,
           lost := if d.counted = .lost then min 65535 (c.counters.lost + 1) else c.counters.lost,
           engineLate := (t.channel n).counters.engineLate } ∧
       (t.status.flags.getLsbD 3 = true ↔
         s.status.flags.getLsbD 3 = true ∨
           (c.playout.health.health = .present ∧ (t.channel n).playout.health.health = .absent)) ∧
       (t.status.flags.getLsbD 4 = true ↔
         s.status.flags.getLsbD 4 = true ∨
           (c.playout.health.health = .absent ∧ (t.channel n).playout.health.health = .present)) ∧
       (∀ m, m ∈ t.status.healthChanged ↔
         m ∈ s.status.healthChanged ∨ (m = n ∧ c.playout.health.health ≠ (t.channel n).playout.health.health)) ∧
       (∀ k, k ≠ 3 → k ≠ 4 → k ≠ 5 → t.status.flags.getLsbD k = s.status.flags.getLsbD k) ∧
       s.status.NoticeFollows t.status ∧ t.status.counters = s.status.counters ∧ t.status.mask = s.status.mask) ∧
  (∀ (h : HealthRecord) (nGood nLost : Nat),
     h.record nGood nLost .nothing = h ∧
     (h.record nGood nLost .good).goodRun = min 255 (h.goodRun + 1) ∧ (h.record nGood nLost .good).lostRun = 0 ∧
     ((h.record nGood nLost .good).health = .present ↔
       h.health = .present ∨ nGood ≤ min 255 (h.goodRun + 1)) ∧
     (h.record nGood nLost .lost).lostRun = min 255 (h.lostRun + 1) ∧ (h.record nGood nLost .lost).goodRun = 0 ∧
     ((h.record nGood nLost .lost).health = .absent ↔
       h.health = .absent ∨ nLost ≤ min 255 (h.lostRun + 1)))

/-- The boundary at which CLOSING completes (1.6, 2.5, 5.5): the context becomes FREE with its generation, codec state and
counters kept, its jobs in flight are voided and counted, and a trace ARMED on it returns to IDLE, aborted. That the applied
settings keep their values too is the model's choice (log 2): 1.1 says only that no block reads them while the context is
FREE. What the buffers out of use hold is left out (log 2). -/
def Obligations.ClosingCompletesAtBoundary : Prop :=
  ∀ (s : State) (n : Nat) (c : Channel) (late : Nat), s.running → c = s.channel n → c.boundaryDue = true →
    c.state = .closing → c.counters.engineLate ≤ 65535 →
    late = s.engine.inFlight.countP (fun j => j.context == n && !j.void) →
    ∃ t, exec (.contextBoundary n []) s = .next t ∧
      t.channel n =
        { c with
          state := .free, binding := none, waiting := PendingRecord.empty, firstBoundary := false,
          boundaryDue := false, playout := { c.playout with queue := [] }, buffers := (t.channel n).buffers,
          driven := none,
          counters := { c.counters with engineLate := min 65535 (c.counters.engineLate + late) } } ∧
      (t.channel n).buffers.filled = false ∧
      (∀ m, m ≠ n → t.channel m = s.channel m) ∧
      t.engine.queue = s.engine.queue.map (fun j => if j.context = n then { j with void := true } else j) ∧
      t.engine.current =
        s.engine.current.map (fun r => if r.job.context = n then { r with job := { r.job with void := true } } else r) ∧
      t.status.flags.getLsbD 5 = (s.status.flags.getLsbD 5 || late != 0) ∧
      (∀ k, k ≠ 5 → t.status.flags.getLsbD k = s.status.flags.getLsbD k) ∧ s.status.NoticeFollows t.status ∧
      t.status.healthChanged = s.status.healthChanged ∧ t.status.counters = s.status.counters ∧
      t.trace =
        (match s.trace with
         | .armed a => if a.context = n then .idle (some a) true else .armed a
         | .idle last aborted => .idle last aborted
         | .filled a samples => .filled a samples) ∧
      t.management = s.management ∧ t.highway = s.highway ∧ t.links = s.links ∧ t.tables = s.tables ∧
      t.stagingHold = s.stagingHold ∧ t.pending = s.pending

/-- The issue of a job, one event (5.3): every job of its context and kind in flight that is not void is voided, and the new
one stands at the tail of a queue of fewer than 32 records, where an idle engine takes it, or is refused; each voided job and
a refused one counts as engine-late, with ENGINE-LATE (10.1) and nothing else of the status. The jobs of boundaries of one
tick that `order` names together are issued after these boundaries, those that it names in its order, then the others; the
manual leaves that order open (log 4), and one boundary's own work (`State.boundary`) leaves the other contexts alone. A
boundary that no tick owes does nothing (log 3). The engine's taking of a job (5.4): a busy engine takes none; an idle one
removes the void heads and starts the first job that is not void, reading its context's codec state, its gain, Fade[k] for
CONCEAL(k) and the Step Table. -/
def Obligations.IssuedJobsArePlacedAndTaken : Prop :=
  ((∀ (s : State) (n : Nat) (order : List JobRef), s.running → (s.channel n).boundaryDue = false →
     (∀ r ∈ order, (s.channel r.context).boundaryDue = false) → exec (.contextBoundary n order) s = .next s) ∧
   (∀ (s : State) (n : Nat) (order : List JobRef), s.running →
     ∃ (contexts : List Nat) (jobs : List Job),
       exec (.contextBoundary n order) s = .next (jobs.foldl State.issueJob (contexts.foldl State.boundary s)) ∧
       contexts.Pairwise (· < ·) ∧ (∀ m, m ∈ contexts ↔ m = n ∨ ∃ r ∈ order, r.context = m) ∧
       jobs.Perm (contexts.flatMap s.boundaryJobs) ∧
       (∀ (before after : List JobRef) (r : JobRef) (i j : Job), order = before ++ r :: after → i ∈ jobs → j ∈ jobs →
         i.matches r = true → (∀ x ∈ before ++ [r], j.matches x = false) → [i, j].Sublist jobs) ∧
       exec (.contextBoundary n []) s = .next ((s.boundaryJobs n).foldl State.issueJob (s.boundary n))) ∧
   (∀ (s : State) (n : Nat), (∀ m, m ≠ n → (s.boundary n).channel m = s.channel m) ∧
     ((s.channel n).boundaryDue = false ∨ (s.channel n).state ≠ .opened → s.boundaryJobs n = [])) ∧
   ∀ (s : State) (j : Job) (voided : Job → Job) (late : Nat),
     (∀ x, voided x = if x.context = j.context ∧ x.work.kind = j.work.kind then { x with void := true } else x) →
     late =
       s.engine.inFlight.countP (fun x => x.context == j.context && x.work.kind == j.work.kind && !x.void) +
         (if s.engine.queue.length < 32 then 0 else 1) →
     ∃ u : State,
       (s.engine.queue.length < 32 →
         s.issueJob j = ({ u with engine := { u.engine with queue := u.engine.queue ++ [j] } } : State).takeJob) ∧
       (32 ≤ s.engine.queue.length → s.issueJob j = u) ∧
       u.engine =
         { queue := s.engine.queue.map voided,
           current := s.engine.current.map fun r => { r with job := voided r.job } } ∧
       (j.context < 192 → (s.channel j.context).counters.engineLate ≤ 65535 →
         u.channel j.context =
           { s.channel j.context with
             counters :=
               { (s.channel j.context).counters with
                 engineLate := min 65535 ((s.channel j.context).counters.engineLate + late) } }) ∧
       (∀ m, m ≠ j.context → u.channel m = s.channel m) ∧
       u.status.flags.getLsbD 5 = (s.status.flags.getLsbD 5 || late != 0) ∧
       (∀ k, k ≠ 5 → u.status.flags.getLsbD k = s.status.flags.getLsbD k) ∧ s.status.NoticeFollows u.status ∧
       u.status.mask = s.status.mask ∧ u.status.counters = s.status.counters ∧
       u.status.healthChanged = s.status.healthChanged ∧ u.management = s.management ∧ u.highway = s.highway ∧
       u.links = s.links ∧ u.tables = s.tables ∧ u.stagingHold = s.stagingHold ∧ u.trace = s.trace ∧
       u.pending = s.pending) ∧
  ((∀ (s : State) (r : Run), s.engine.current = some r → s.takeJob = s) ∧
   (∀ s : State, s.engine.current = none → (∀ j ∈ s.engine.queue, j.void = true) →
     s.takeJob = { s with engine := { s.engine with queue := [] } }) ∧
   ∀ (s : State) (voids rest : List Job) (j : Job), s.engine.current = none → s.engine.queue = voids ++ j :: rest →
     (∀ v ∈ voids, v.void = true) → j.void = false →
     ∃ r, s.takeJob = { s with engine := { s.engine with queue := rest, current := some r } } ∧
       r.job = j ∧ r.codec = (s.channel j.context).codec ∧ r.gain = s.tables.gain[j.gain] ∧ r.step = s.tables.step ∧
       (∀ k f, j.work = .conceal k f → ∀ i : Fin 6, k = i.val + 1 → r.fade = s.tables.fade[i]) ∧
       (∀ w, j.work = .encode w →
         r.collected =
           (match w.bank with
            | .first => (s.channel j.context).buffers.firstBank
            | .second => (s.channel j.context).buffers.secondBank)))

/-! ## Modes (1.7) -/

/-- R19: the mode itself when it is a member, else the highest member below it, else the lowest member. The applied mode moves
at most one place (1.7): to the nearest member on the target's side, never past the target. -/
def Obligations.ModesResolveAndStep : Prop :=
  (∀ (set : ModeSet) (m : Nat), set.nonempty = true →
     set.has (set.resolve m) = true ∧
     (∀ x, set.has x = true → x.width = m → set.resolve m = x) ∧
     (∀ x, set.has x = true → x.width < m → x.width ≤ (set.resolve m).width ∧ (set.resolve m).width ≤ m) ∧
     ((∀ x, set.has x = true → m < x.width) → ∀ x, set.has x = true → (set.resolve m).width ≤ x.width)) ∧
  (∀ (set : ModeSet) (mode target : Mode), set.has mode = true → set.has target = true →
     set.has (set.stepToward mode target) = true ∧
     (mode = target → set.stepToward mode target = mode) ∧
     (mode.width < target.width →
       mode.width < (set.stepToward mode target).width ∧ (set.stepToward mode target).width ≤ target.width ∧
         ∀ x, set.has x = true → mode.width < x.width → (set.stepToward mode target).width ≤ x.width) ∧
     (target.width < mode.width →
       (set.stepToward mode target).width < mode.width ∧ target.width ≤ (set.stepToward mode target).width ∧
         ∀ x, set.has x = true → x.width < mode.width → x.width ≤ (set.stepToward mode target).width))

/-! ## Uplink playout (Chapter 4) -/

/-- The decision of PRIMING, PLAYING and SILENT (4.3), case by case; `Playout.conceal` is said in the second half.
Concealment (4.3): the loss count rises to at most 255; the first six losses after a good frame replay it, every other is
silence; the last good frame stays. A PLAYING boundary that conceals records a lost frame. -/
def Obligations.PlayoutDecisionTable : Prop :=
  (∀ (p : Playout) (depth limit : Nat),
     (p.state = .priming → depth ≤ p.queue.length ∨ (limit ≤ p.primingCount ∧ p.queue ≠ []) →
       p.decide depth limit = ({ p with state := .playing } : Playout).decide depth limit) ∧
     (p.state = .priming → p.queue.length < depth → (p.primingCount < limit ∨ p.queue = []) →
       p.decide depth limit =
         { playout := { p with primingCount := min 255 (p.primingCount + 1) }, work := .zero, counted := .nothing,
           recorded := .nothing }) ∧
     (p.state = .playing → (∀ head ∈ p.queue.head?, head.seq ≠ p.nextSeq) →
       p.decide depth limit =
         { playout := { p.conceal.1 with nextSeq := p.nextSeq + 1 }, work := p.conceal.2, counted := .lost,
           recorded := .lost }) ∧
     (p.state = .silent → p.queue = [] →
       p.decide depth limit =
         { playout :=
             { p with
               silentGap := p.silentGap + 1, state := if 32 ≤ p.silentGap + 1 then .playing else .silent },
           work := .zero, counted := .nothing, recorded := .nothing }) ∧
     ∀ (head : Entry) (rest : List Entry), p.queue = head :: rest →
       (p.state = .playing ∧ head.seq = p.nextSeq) ∨ p.state = .silent →
       (∀ f, head.body = .speech f →
         p.decide depth limit =
           { playout :=
               { p with
                 queue := rest, nextSeq := head.seq + 1, state := .playing, lastGood := some f, lossCount := 0 },
             work := .frame f, counted := .good, recorded := .good }) ∧
       (head.body = .silence →
         p.decide depth limit =
           { playout :=
               { p with
                 queue := rest, nextSeq := head.seq + 1, state := .silent, lastGood := none, lossCount := 0,
                 silentGap := 0 },
             work := .zero, counted := .nothing, recorded := .good }) ∧
       (head.body = .damaged →
         p.decide depth limit =
           { playout := { p.conceal.1 with queue := rest, nextSeq := head.seq + 1, state := .playing },
             work := p.conceal.2, counted := .damaged, recorded := .lost })) ∧
  (∀ (p : Playout) (k : Nat), k = min 255 (p.lossCount + 1) →
     p.conceal.1 = { p with lossCount := k } ∧
     (∀ f, p.lastGood = some f → k ≤ 6 → p.conceal.2 = .conceal k f) ∧
     (p.lastGood = none ∨ 7 ≤ k → p.conceal.2 = .zero) ∧
     (∀ depth limit, p.state = .playing →
       ((p.decide depth limit).counted = .lost ∨ (p.decide depth limit).counted = .damaged) →
       (p.decide depth limit).recorded = .lost ∧ (p.decide depth limit).work = p.conceal.2))

/-- What becomes of an arrival at an OPEN context (4.2), by its distance from next_seq: late, resynchronised on, inserted in
its place, a repair of a DAMAGED entry, or a duplicate; an arrival that was taken, a repair too, gives its quality and, where
it may, its request. -/
def Obligations.ArrivalDisposition : Prop :=
  ∀ (c : Channel) (seq : Byte) (body : EntryBody) (request quality : BitVec 4) (p : Playout) (d : Nat) (t : Channel),
    p = (if c.playout.anchored then c.playout
         else { c.playout with nextSeq := seq, anchored := true, primingCount := 0 }) →
    d = (seq - p.nextSeq).toNat → t = c.arrive seq body request quality →
    (128 ≤ d →
      t = { c with playout := p, counters := { c.counters with late := min 65535 (c.counters.late + 1) } }) ∧
    (8 ≤ d → d ≤ 127 →
      t.playout =
          { p with
            queue := [{ seq := seq, body := body }], nextSeq := seq, state := .priming, primingCount := 0,
            silentGap := 0, lastQuality := quality,
            minQuality := if quality.toNat < p.minQuality.toNat then quality else p.minQuality } ∧
        t.counters =
          { c.counters with
            resync := min 65535 (c.counters.resync + 1),
            resyncDropped := min 65535 (c.counters.resyncDropped + p.queue.length) }) ∧
    (d ≤ 7 → (∀ q ∈ p.queue, q.seq ≠ seq) →
      (∃ front back, p.queue = front ++ back ∧ t.playout.queue = front ++ { seq := seq, body := body } :: back ∧
        (∀ q ∈ front, (q.seq - p.nextSeq).toNat ≤ d) ∧ ∀ q ∈ back.head?, d < (q.seq - p.nextSeq).toNat) ∧
      t.playout =
        { p with
          queue := t.playout.queue, lastQuality := quality,
          minQuality := if quality.toNat < p.minQuality.toNat then quality else p.minQuality } ∧
      t.counters = c.counters) ∧
    (∀ front q back, d ≤ 7 → p.queue = front ++ q :: back → q.seq = seq → (∀ x ∈ front ++ back, x.seq ≠ seq) →
      (q.body = .damaged → body ≠ .damaged →
        t.playout =
            { p with
              queue := front ++ { seq := seq, body := body } :: back, lastQuality := quality,
              minQuality := if quality.toNat < p.minQuality.toNat then quality else p.minQuality } ∧
          t.counters = c.counters ∧
          ∀ m : Mode, c.applied.followRequests = true → request.toNat = m.width →
            t.waiting = { c.waiting with target := some m }) ∧
      (q.body ≠ .damaged ∨ body = .damaged →
        t = { c with playout := p, counters := { c.counters with duplicate := min 65535 (c.counters.duplicate + 1) } })) ∧
    (t.waiting = c.waiting ∨
      (c.applied.followRequests = true ∧
        ∃ m : Mode, request.toNat = m.width ∧ t.waiting = { c.waiting with target := some m })) ∧
    (∀ m : Mode, d ≤ 127 → (∀ q ∈ p.queue, q.seq ≠ seq) → c.applied.followRequests = true → request.toNat = m.width →
      t.waiting = { c.waiting with target := some m }) ∧
    t = { c with playout := t.playout, counters := t.counters, waiting := t.waiting }

/-! ## Link ports (Chapter 3) -/

/-- A unit that began to arrive before the last reset ended is abandoned uncounted when it ends, and the port takes units from
the next one on (3.1). The ingress check (3.1): a unit whose byte count is not 7 plus its length field, or whose header check is
wrong, counts one check failure at its port and does nothing else. The header's layout (11.1) and its check (6.9): what
the part builds it reads back, field by field, and takes. -/
def Obligations.IngressTakesBuiltUnitsAlone : Prop :=
  (∀ (s : State) (bytes : List Byte), s.running →
     (s.links.portA.reception = .abandoned →
       exec (.unitArrival .a bytes) s =
         .next { s with links := { s.links with portA := { s.links.portA with reception := .none } } }) ∧
     (s.links.portB.reception = .abandoned →
       exec (.unitArrival .b bytes) s =
         .next { s with links := { s.links with portB := { s.links.portB with reception := .none } } })) ∧
  (∀ (s : State) (bytes : List Byte), s.running →
     (¬∃ len check : Byte, bytes[5]? = some len ∧ bytes[6]? = some check ∧ bytes.length = 7 + len.toNat ∧
       check = crc8 (bytes.take 6)) →
     (s.links.portA.reception = .none →
       exec (.unitArrival .a bytes) s =
         .next
           { s with
             status :=
               { s.status with
                 counters :=
                   { s.status.counters with checkFailuresA := min 65535 (s.status.counters.checkFailuresA + 1) } } }) ∧
       (s.links.portB.reception = .none →
         exec (.unitArrival .b bytes) s =
           .next
             { s with
               status :=
                 { s.status with
                   counters :=
                     { s.status.counters with
                       checkFailuresB := min 65535 (s.status.counters.checkFailuresB + 1) } } })) ∧
  (∀ (h : Header) (payload : List Byte), payload.length = h.length.toNat → ingress (h.unit payload) = some (h, payload))

/-- A unit that passes the check joins a pass-through queue unchanged where it is foreign (3.1, 3.2, 3.4): at port B always, at
port A where neither the management label nor a window claims it and CHAIN_END is low. A queue of 64 units takes no more: the
unit is lost, counted, and EGRESS-DROP is set. -/
def Obligations.PassThroughQueuesOrDrops : Prop :=
  ∀ (s : State) (h : Header) (payload bytes : List Byte), s.running → s.links.portA.reception = .none →
    s.links.portB.reception = .none → ingress bytes = some (h, payload) →
    (s.links.bToA.length < 64 →
      exec (.unitArrival .b bytes) s =
        .next
          ({ s with links := { s.links with bToA := s.links.bToA ++ [bytes] } } : State).selectA) ∧
    (64 ≤ s.links.bToA.length →
      exec (.unitArrival .b bytes) s =
        .next
          (({ s with
              status :=
                { s.status with
                  counters := { s.status.counters with bToADrops := min 65535 (s.status.counters.bToADrops + 1) } } } :
            State).raise .egressDrop)) ∧
    (h.label ≠ s.managementLabel → s.tables.lookup h.label = none → s.management.straps.chainEnd = false →
      (s.links.aToB.length < 64 →
        exec (.unitArrival .a bytes) s =
          .next
            ({ s with links := { s.links with aToB := s.links.aToB ++ [bytes] } } : State).selectB) ∧
      (64 ≤ s.links.aToB.length →
        exec (.unitArrival .a bytes) s =
          .next
            (({ s with
                status :=
                  { s.status with
                    counters :=
                      { s.status.counters with aToBDrops := min 65535 (s.status.counters.aToBDrops + 1) } } } :
              State).raise .egressDrop)))

/-- Routing at port A (3.2) of a unit that is taken and passes the check: the management label goes to the Management
Unit (CONTROL) or counts as bad-kind; a claimed label reaches its context if that is OPEN and the unit is SPEECH or SILENCE,
and else counts as closed-context, bad-kind or unclaimed; with CHAIN_END high an unclaimed unit counts as unclaimed. The label
lookup (3.2): the lowest-numbered valid window that covers the label, its first context plus the label's offset; no answer
when none covers it. -/
def Obligations.PortARoutesByLabelAndKind : Prop :=
  (∀ (s : State) (h : Header) (payload bytes : List Byte), s.running → s.links.portA.reception = .none →
     ingress bytes = some (h, payload) →
     (h.label = s.managementLabel → h.kind = 3 →
       exec (.unitArrival .a bytes) s = .next (s.control h.seq payload)) ∧
     (h.label = s.managementLabel → h.kind ≠ 3 →
       exec (.unitArrival .a bytes) s = .next (s.count fun c => { c with badKind := min 65535 (c.badKind + 1) })) ∧
     (h.label ≠ s.managementLabel → s.tables.lookup h.label = none → s.management.straps.chainEnd = true →
       exec (.unitArrival .a bytes) s = .next (s.count fun c => { c with unclaimed := min 65535 (c.unclaimed + 1) })) ∧
     ∀ n, h.label ≠ s.managementLabel → s.tables.lookup h.label = some n →
       (191 < n →
         exec (.unitArrival .a bytes) s = .next (s.count fun c => { c with unclaimed := min 65535 (c.unclaimed + 1) })) ∧
       (n ≤ 191 → h.kind ≠ 1 → h.kind ≠ 2 →
         exec (.unitArrival .a bytes) s = .next (s.count fun c => { c with badKind := min 65535 (c.badKind + 1) })) ∧
       (n ≤ 191 → h.kind = 1 ∨ h.kind = 2 → (s.channel n).state ≠ .opened →
         exec (.unitArrival .a bytes) s =
           .next (s.count fun c => { c with closedContext := min 65535 (c.closedContext + 1) })) ∧
       (n ≤ 191 → h.kind = 2 → (s.channel n).state = .opened →
         exec (.unitArrival .a bytes) s =
           .next (s.updateChannel n fun c => c.arrive h.seq .silence h.request h.quality)) ∧
       (n ≤ 191 → h.kind = 1 → (s.channel n).state = .opened →
         (∀ mode : Mode, h.mode.toNat = mode.width → payload.length = mode.payloadLength →
           payload.getLast? = some (crc8 payload.dropLast) →
           exec (.unitArrival .a bytes) s =
             .next (s.updateChannel n fun c =>
               c.arrive h.seq (.speech (unpackFrame mode payload)) h.request h.quality)) ∧
         ((∀ mode : Mode, h.mode.toNat = mode.width → payload.length = mode.payloadLength →
             payload.getLast? ≠ some (crc8 payload.dropLast)) →
           exec (.unitArrival .a bytes) s =
             .next (s.updateChannel n fun c => c.arrive h.seq .damaged h.request h.quality)))) ∧
  (∀ (t : Tables) (label : BitVec 16),
     (∀ i : Fin 32, t.window[i].valid = true → t.window[i].base.toNat ≤ label.toNat →
       label.toNat ≤ t.window[i].limit.toNat →
       (∀ j : Fin 32, j < i →
         ¬(t.window[j].valid = true ∧ t.window[j].base.toNat ≤ label.toNat ∧ label.toNat ≤ t.window[j].limit.toNat)) →
       t.lookup label = some (t.window[i].first + (label.toNat - t.window[i].base.toNat))) ∧
     ((∀ i : Fin 32,
         ¬(t.window[i].valid = true ∧ t.window[i].base.toNat ≤ label.toNat ∧ label.toNat ≤ t.window[i].limit.toNat)) →
       t.lookup label = none))

/-- R55: a SPEECH or SILENCE unit enters the originated queue where it holds fewer than 64 units and fewer than 60 of those
two kinds; else it is discarded, counted in the originated drops, and EGRESS-DROP is set. R56: a RESPONSE or NOTICE enters
where the queue holds fewer than 64 units, whatever their kinds; a RESPONSE that finds 64 is counted as lost, a NOTICE is
discarded without a trace. -/
def Obligations.OriginatedQueueReservations : Prop :=
  (∀ (s : State) (kind : UnitKind) (bytes : List Byte), kind = .speech ∨ kind = .silence →
     (s.links.originated.length < 64 ∧
         (s.links.originated.filter fun u => u.kind = .speech ∨ u.kind = .silence).length < 60 →
       s.offerSpeech kind bytes =
         ({ s with
             links :=
               { s.links with
                 originated :=
                   s.links.originated ++
                     [{ bytes := bytes, kind := kind, stamp := s.highway.cycleCounter, restarts := false }] } } :
           State).selectA) ∧
     (¬(s.links.originated.length < 64 ∧
         (s.links.originated.filter fun u => u.kind = .speech ∨ u.kind = .silence).length < 60) →
       s.offerSpeech kind bytes =
         (({ s with
             status :=
               { s.status with
                 counters :=
                   { s.status.counters with
                     originatedDrops := min 65535 (s.status.counters.originatedDrops + 1) } } } : State).raise
           .egressDrop))) ∧
  (∀ (s : State) (bytes : List Byte) (restarts : Bool),
     (s.links.originated.length < 64 →
       s.offerResponse bytes restarts =
           ({ s with
               links :=
                 { s.links with
                   originated :=
                     s.links.originated ++
                       [{ bytes := bytes, kind := .response, stamp := s.highway.cycleCounter, restarts := restarts }] } } :
             State).selectA ∧
         s.offerNotice bytes =
           ({ s with
               links :=
                 { s.links with
                   originated :=
                     s.links.originated ++
                       [{ bytes := bytes, kind := .notice, stamp := s.highway.cycleCounter, restarts := false }] } } :
             State).selectA) ∧
     (64 ≤ s.links.originated.length →
       s.offerResponse bytes restarts =
           { s with
             status :=
               { s.status with
                 counters :=
                   { s.status.counters with responsesLost := min 65535 (s.status.counters.responsesLost + 1) } } } ∧
         s.offerNotice bytes = s))

/-- A selection at port A (3.6): none while the port sends or is held or nothing waits; else the arbiter's queue, alternating
where both wait; stale speech at the head of the originated queue is discarded and counted first, and a queue emptied by it
gives the turn away. -/
def Obligations.PortASelection : Prop :=
  ∀ s : State,
    (s.links.portA.sending.isSome = true ∨ s.links.portA.hold = true → s.selectA = s) ∧
    (s.links.originated = [] → s.links.bToA = [] → s.selectA = s) ∧
    (s.links.portA.sending = none → s.links.portA.hold = false →
      (∀ unit rest, s.links.bToA = unit :: rest → s.links.originated = [] ∨ s.links.lastServed = .originated →
        s.selectA =
          { s with
            links :=
              { s.links with
                portA :=
                  { s.links.portA with sending := some { bytes := unit, origin := .passThrough, restarts := false } },
                bToA := rest, lastServed := .passThrough } }) ∧
      (∀ (stale kept : List QueuedUnit) (status : Status), s.links.originated ≠ [] →
        s.links.bToA = [] ∨ s.links.lastServed = .passThrough → s.links.originated = stale ++ kept →
        (∀ u ∈ stale, (u.kind = .speech ∨ u.kind = .silence) ∧
          s.tables.setting 6 ≤ (s.highway.cycleCounter - u.stamp).toNat) →
        (∀ u ∈ kept.head?, ¬((u.kind = .speech ∨ u.kind = .silence) ∧
          s.tables.setting 6 ≤ (s.highway.cycleCounter - u.stamp).toNat)) →
        status =
          ({ s.status with
              counters := { s.status.counters with stale := min 65535 (s.status.counters.stale + stale.length) } } :
            Status).raiseIf (stale.length != 0) .egressDrop →
        (∀ u rest, kept = u :: rest →
          s.selectA =
            { s with
              links :=
                { s.links with
                  portA :=
                    { s.links.portA with
                      sending := some { bytes := u.bytes, origin := .originated, restarts := u.restarts } },
                  originated := rest, lastServed := .originated },
              status := status }) ∧
        (kept = [] → s.links.bToA = [] →
          s.selectA = { s with links := { s.links with originated := [] }, status := status }) ∧
        (∀ unit rest, kept = [] → s.links.bToA = unit :: rest →
          s.selectA =
            { s with
              links :=
                { s.links with
                  portA :=
                    { s.links.portA with
                      sending := some { bytes := unit, origin := .passThrough, restarts := false } },
                  originated := [], bToA := rest, lastServed := .passThrough },
              status := status })))

/-- A transmission's completion (3.6, 8.6): the port is free; a unit of the originated queue counts as sent; the RESPONSE a
RESTART is pending on begins the reset, and every other completion leads to the port's next selection. Without a transmission
nothing happens (log 5). -/
def Obligations.TransmissionCompletes : Prop :=
  ∀ s : State, s.running →
    (∀ (sent : Sending) (u : State), s.links.portA.sending = some sent →
      u =
        { s with
          links := { s.links with portA := { s.links.portA with sending := none } },
          status :=
            { s.status with
              counters :=
                { s.status.counters with
                  originatedSent :=
                    if sent.origin = .originated then min 65535 (s.status.counters.originatedSent + 1)
                    else s.status.counters.originatedSent } } } →
      (sent.restarts = true → s.management.restart.isSome = true →
        exec (.transmissionComplete .a) s = exec .powerUp u) ∧
      (sent.restarts = false ∨ s.management.restart = none →
        exec (.transmissionComplete .a) s = .next u.selectA)) ∧
    (s.links.portA.sending = none → exec (.transmissionComplete .a) s = .next s) ∧
    (s.links.portB.sending = none → exec (.transmissionComplete .b) s = .next s) ∧
    (∀ sent, s.links.portB.sending = some sent →
      (s.links.portB.hold = true ∨ s.links.aToB = [] →
        exec (.transmissionComplete .b) s =
          .next { s with links := { s.links with portB := { s.links.portB with sending := none } } }) ∧
      ∀ unit rest, s.links.portB.hold = false → s.links.aToB = unit :: rest →
        exec (.transmissionComplete .b) s =
          .next
            { s with
              links :=
                { s.links with
                  portB :=
                    { s.links.portB with
                      sending := some { bytes := unit, origin := .passThrough, restarts := false } },
                  aToB := rest } })

/-- The peers' hold (3.6): assertion stops no transmission and changes nothing but the port's hold state; release leads to the
port's selection. In RESET the level is tracked and nothing is sent (the model's choice, log 12). -/
def Obligations.PeerHoldStopsNewTransmissions : Prop :=
  ∀ s : State,
    exec (.peerHoldAsserted .a) s =
        .next { s with links := { s.links with portA := { s.links.portA with hold := true } } } ∧
      exec (.peerHoldAsserted .b) s =
        .next { s with links := { s.links with portB := { s.links.portB with hold := true } } } ∧
      (s.running →
        exec (.peerHoldReleased .a) s =
            .next
              ({ s with links := { s.links with portA := { s.links.portA with hold := false } } } : State).selectA ∧
          exec (.peerHoldReleased .b) s =
            .next
              (match s.links.portB.sending, s.links.aToB with
               | none, unit :: rest =>
                 { s with
                   links :=
                     { s.links with
                       portB :=
                         { s.links.portB with
                           hold := false,
                           sending := some { bytes := unit, origin := .passThrough, restarts := false } },
                       aToB := rest } }
               | _, _ => { s with links := { s.links with portB := { s.links.portB with hold := false } } })) ∧
      (s.management.device = .reset →
        exec (.peerHoldReleased .a) s =
            .next { s with links := { s.links with portA := { s.links.portA with hold := false } } } ∧
          exec (.peerHoldReleased .b) s =
            .next { s with links := { s.links with portB := { s.links.portB with hold := false } } })

/-! ## The management channel (Chapters 8 to 11) -/

/-- A row of the command catalogue is the arrival at port A of a CONTROL unit under the management label whose list holds that
one command (the model's reading of the rows, log 7); the unit's mode, request and quality are not read (9.1). -/
def Obligations.CatalogueRowIsOneCommandUnit : Prop :=
  ∀ (s : State) (env : Envelope) (args : List Byte) (mode request quality : BitVec 4) (unit : Byte → List Byte),
    s.running → s.links.portA.reception = .none → args.length ≤ 252 →
    (∀ code, unit code =
      Header.unit
        { label := s.managementLabel, kind := 3, mode := mode, seq := env.seq, request := request, quality := quality,
          length := BitVec.ofNat 8 (3 + args.length) }
        (env.tag :: code :: BitVec.ofNat 8 args.length :: args)) →
    exec (.identify env args) s = exec (.unitArrival .a (unit 0x01)) s ∧
    exec (.setState env args) s = exec (.unitArrival .a (unit 0x02)) s ∧
    exec (.hold env args) s = exec (.unitArrival .a (unit 0x03)) s ∧
    exec (.release env args) s = exec (.unitArrival .a (unit 0x04)) s ∧
    exec (.restart env args) s = exec (.unitArrival .a (unit 0x05)) s ∧
    exec (.openCall env args) s = exec (.unitArrival .a (unit 0x10)) s ∧
    exec (.modify env args) s = exec (.unitArrival .a (unit 0x11)) s ∧
    exec (.close env args) s = exec (.unitArrival .a (unit 0x12)) s ∧
    exec (.contextReport env args) s = exec (.unitArrival .a (unit 0x13)) s ∧
    exec (.writeTable env args) s = exec (.unitArrival .a (unit 0x20)) s ∧
    exec (.writeNext env args) s = exec (.unitArrival .a (unit 0x21)) s ∧
    exec (.readTable env args) s = exec (.unitArrival .a (unit 0x22)) s ∧
    exec (.readNext env args) s = exec (.unitArrival .a (unit 0x23)) s ∧
    exec (.readStatus env args) s = exec (.unitArrival .a (unit 0x30)) s ∧
    exec (.clearFlags env args) s = exec (.unitArrival .a (unit 0x31)) s ∧
    exec (.setNoticeMask env args) s = exec (.unitArrival .a (unit 0x32)) s ∧
    exec (.traceArm env args) s = exec (.unitArrival .a (unit 0x40)) s ∧
    exec (.traceRead env args) s = exec (.unitArrival .a (unit 0x41)) s

/-- The answer to one command (9.2, 9.3, 11.4): a RESPONSE under the management label with the unit's sequence, the tag and one
record of code, result, data length and data, offered to the originated queue. The numbers of the results (11.4) and of the
commands (9.3). -/
def Obligations.AnswerIsOneRecordResponse : Prop :=
  (∀ (s : State) (env : Envelope) (c : Command) (result : Result) (data front : List Byte), data.length ≤ 251 →
    front =
      [0xFF, BitVec.ofNat 8 (0xF0 + s.management.straps.mgsel.toNat), 0x40, env.seq, 0x00,
        BitVec.ofNat 8 (4 + data.length)] →
    s.answer env c result data =
      s.offerResponse
        (front ++ [crc8 front] ++ [env.tag, c.code, result.code, BitVec.ofNat 8 data.length] ++ data) false) ∧
  (Result.ok.code = 0x00 ∧ Result.badState.code = 0x01 ∧ Result.badArgument.code = 0x02 ∧
    Result.notInStandby.code = 0x03 ∧ Result.timeslotTaken.code = 0x04 ∧ Result.phaseFull.code = 0x05 ∧
    Result.labelMismatch.code = 0x06 ∧ Result.tableEnd.code = 0x07 ∧ Result.malformed.code = 0x08 ∧
    Result.unknownCommand.code = 0x09 ∧ Result.truncated.code = 0x0A) ∧
  [Command.identify, .setState, .hold, .release, .restart, .openCall, .modify, .close, .contextReport, .writeTable,
      .writeNext, .readTable, .readNext, .readStatus, .clearFlags, .setNoticeMask, .traceArm, .traceRead].map Command.code =
    [0x01, 0x02, 0x03, 0x04, 0x05, 0x10, 0x11, 0x12, 0x13, 0x20, 0x21, 0x22, 0x23, 0x30, 0x31, 0x32, 0x40, 0x41]

/-- SET STATE (8.4): OPERATING always, STANDBY where no context is in use, each with OK; STANDBY refused with BAD-STATE while
a context is OPEN or CLOSING; anything else refused with BAD-ARGUMENT. Nothing but the device state changes. HOLD sets the
staging hold and RELEASE clears it, with OK whatever it was (8.3); with an argument both are refused and the flag stays. -/
def Obligations.DeviceStateAndStagingHold : Prop :=
  (∀ (s : State) (env : Envelope) (args : List Byte), s.running → args.length ≤ 252 →
     (args = [2] →
       exec (.setState env args) s =
         .next
           (({ s with management := { s.management with device := .operating } } : State).answer env .setState .ok [])) ∧
     (args = [1] → s.management.device = .standby ∨ (∀ n, (s.channel n).state = .free) →
       exec (.setState env args) s =
         .next
           (({ s with management := { s.management with device := .standby } } : State).answer env .setState .ok [])) ∧
     (args = [1] → s.management.device = .operating → (∃ n, (s.channel n).state ≠ .free) →
       exec (.setState env args) s = .next (s.answer env .setState .badState [])) ∧
     (args ≠ [1] → args ≠ [2] → exec (.setState env args) s = .next (s.answer env .setState .badArgument []))) ∧
  (∀ (s : State) (env : Envelope) (args : List Byte), s.running → args.length ≤ 252 →
     (args = [] →
       exec (.hold env args) s = .next (({ s with stagingHold := true } : State).answer env .hold .ok []) ∧
       exec (.release env args) s = .next (({ s with stagingHold := false } : State).answer env .release .ok [])) ∧
     (args ≠ [] →
       exec (.hold env args) s = .next (s.answer env .hold .badArgument []) ∧
       exec (.release env args) s = .next (s.answer env .release .badArgument [])))

/-- IDENTIFY (8.7, 11.4): the constants of the part and the strap value, with no state changed; an argument is refused.
RESTART (8.6): refused with an argument, where it is not the last command of its list (the commands after it are executed),
or while one is pending; else OK, and the RESTART is pending on its RESPONSE, which is
offered with the mark that its sending begins the reset. -/
def Obligations.IdentifyAndRestart : Prop :=
  (∀ (s : State) (env : Envelope) (args : List Byte), s.running → args.length ≤ 252 →
     (args = [] →
       exec (.identify env args) s =
         .next
           (s.answer env .identify .ok
             [0x0E, 0x47, 0x01, 0x92, 1,
               BitVec.ofNat 8
                 (s.management.straps.mgsel.toNat + (if s.management.straps.chainEnd then 8 else 0) +
                   if s.management.straps.hwyRole then 16 else 0),
               192, 32, 48, 32, 6, 32, 8])) ∧
     (args ≠ [] → exec (.identify env args) s = .next (s.answer env .identify .badArgument []))) ∧
  (∀ (s : State) (env : Envelope) (args : List Byte), s.running → args.length ≤ 252 →
     (args ≠ [] → exec (.restart env args) s = .next (s.answer env .restart .badArgument [])) ∧
     (args = [] → s.management.restart.isSome = true →
       exec (.restart env args) s = .next (s.answer env .restart .badState [])) ∧
     (args = [] → s.management.restart = none →
       ∀ (front unit : List Byte),
         front = [0xFF, BitVec.ofNat 8 (0xF0 + s.management.straps.mgsel.toNat), 0x40, env.seq, 0x00, 4] →
         unit = front ++ [crc8 front] ++ [env.tag, 0x05, 0x00, 0] →
         exec (.restart env args) s =
           .next
             (({ s with management := { s.management with restart := some unit } } : State).offerResponse unit true))) ∧
  ∀ (turns position : Nat) (len : Byte) (args tail : List Byte) (r : ListRun), args.length = len.toNat → tail ≠ [] →
    (0x05 :: len :: (args ++ tail)).length ≤ turns → 1 + r.records.length + 3 ≤ 251 →
    runCommands turns position (0x05 :: len :: (args ++ tail)) r =
      runCommands turns (position + 1) tail { r with records := r.records ++ [0x05, 0x02, 0] }

/-- An accepted OPEN (1.4, 11.3): the binding with its depth clamped, the applied settings made legal, the mode resolved, the
generation stepped, and every part of the context at the start of a call. What the next output buffer and the two collection
buffers hold is the model's choice (log 2) and is left out. -/
def Obligations.OpenAcceptsLegalCall : Prop :=
  ∀ (s : State) (env : Envelope) (args : List Byte) (a : OpenArgs), s.running → parseOpen args = some a →
    s.openRefusal a = none →
    ∃ u : State, exec (.openCall env args) s = .next (u.answer env .openCall .ok []) ∧
      (u.channel a.context).state = .opened ∧
      (u.channel a.context).generation = (s.channel a.context).generation + 1 ∧
      (∃ b : Binding, (u.channel a.context).binding = some b ∧ b.highway.val = a.highway ∧ b.timeslot.val = a.timeslot ∧
        b.phase = a.phase ∧ b.law = a.law ∧ b.label = a.label ∧ b.depth = max 1 (min a.depth 6)) ∧
      (u.channel a.context).applied =
        { allowed := a.allowed, target := a.allowed.resolve a.initialMode, mode := a.allowed.resolve a.initialMode,
          preference :=
            if a.preference = 0 then none
            else some (if a.preference ≤ 2 then .two else if a.preference = 3 then .three else .four),
          uplinkGain := (u.channel a.context).applied.uplinkGain,
          downlinkGain := (u.channel a.context).applied.downlinkGain, followRequests := a.followRequests,
          suppression := a.suppression, threshold := min a.threshold 32767 } ∧
      (u.channel a.context).applied.uplinkGain.val = min a.uplinkGain 31 ∧
      (u.channel a.context).applied.downlinkGain.val = min a.downlinkGain 31 ∧
      (u.channel a.context).waiting = PendingRecord.empty ∧ (u.channel a.context).firstBoundary = true ∧
      (u.channel a.context).boundaryDue = false ∧
      (u.channel a.context).playout =
        { queue := [], nextSeq := 0, anchored := false, state := .priming, primingCount := 0, lossCount := 0,
          lastGood := none, silentGap := 0, health := { health := .absent, goodRun := 0, lostRun := 0 },
          lastQuality := 15, minQuality := 15 } ∧
      (u.channel a.context).codec =
        { decoder := 0,
          encoder := { predictor := 0, suppression := .speaking, silenceRun := 0, refresh := 0, seq := 0 } } ∧
      (u.channel a.context).buffers.playing = List.replicate 160 a.law.idle ∧
      (u.channel a.context).buffers.filled = false ∧
      (u.channel a.context).counters.toList = List.replicate 11 0 ∧
      (∀ m, m ≠ a.context → u.channel m = s.channel m) ∧
      u.management = s.management ∧ u.highway = s.highway ∧ u.links = s.links ∧ u.tables = s.tables ∧
      u.stagingHold = s.stagingHold ∧ u.engine = s.engine ∧ u.status = s.status ∧ u.trace = s.trace ∧
      u.pending = s.pending

/-- OPEN's refusals in their order (1.4): each condition answers its result where none before it holds, and nothing changes.
The argument step comes first (9.2). The sixteen argument bytes of OPEN, read in their places (11.3). -/
def Obligations.OpenRefusesInOrder : Prop :=
  (∀ (s : State) (env : Envelope) (args : List Byte) (a : OpenArgs) (state argument slot phase label : Prop), s.running →
     args.length ≤ 252 →
     (parseOpen args = none → exec (.openCall env args) s = .next (s.answer env .openCall .badArgument [])) ∧
     (parseOpen args = some a →
       (state ↔ s.management.device ≠ .operating ∨ (a.context ≤ 191 ∧ (s.channel a.context).state ≠ .free)) →
       (argument ↔ 191 < a.context ∨ 3 < a.highway ∨ 63 < a.timeslot ∨ 159 < a.phase ∨
         (a.allowed.two = false ∧ a.allowed.three = false ∧ a.allowed.four = false) ∨ a.label = s.managementLabel) →
       (slot ↔ ∃ n b, (s.channel n).state ≠ .free ∧ (s.channel n).binding = some b ∧ b.highway.val = a.highway ∧
         b.timeslot.val = a.timeslot) →
       (phase ↔
         8 ≤ ((List.range 192).filter fun n =>
           (s.channel n).state ≠ .free ∧ (s.channel n).binding.any fun b => b.phase = a.phase).length) →
       (label ↔ s.tables.lookup a.label ≠ some a.context) →
       (state → exec (.openCall env args) s = .next (s.answer env .openCall .badState [])) ∧
       (¬state → argument → exec (.openCall env args) s = .next (s.answer env .openCall .badArgument [])) ∧
       (¬state → ¬argument → slot → exec (.openCall env args) s = .next (s.answer env .openCall .timeslotTaken [])) ∧
       (¬state → ¬argument → ¬slot → phase →
         exec (.openCall env args) s = .next (s.answer env .openCall .phaseFull [])) ∧
       (¬state → ¬argument → ¬slot → ¬phase → label →
         exec (.openCall env args) s = .next (s.answer env .openCall .labelMismatch [])) ∧
       (¬state → ¬argument → ¬slot → ¬phase → ¬label → s.openRefusal a = none))) ∧
  (∀ (ctx hw ts ph law l1 l0 depth allowed mode pref up down options t1 t0 : Byte) (args : List Byte),
     args = [ctx, hw, ts, ph, law, l1, l0, depth, allowed, mode, pref, up, down, options, t1, t0] →
     (law = 0 ∨ law = 1 →
       ∃ a, parseOpen args = some a ∧ a.context = ctx.toNat ∧ a.highway = hw.toNat ∧ a.timeslot = ts.toNat ∧
         a.phase = ph.toNat ∧ (a.law = .e ↔ law = 0) ∧ a.label.toNat = 256 * l1.toNat + l0.toNat ∧
         a.depth = depth.toNat ∧ a.allowed.two = allowed.getLsbD 0 ∧ a.allowed.three = allowed.getLsbD 1 ∧
         a.allowed.four = allowed.getLsbD 2 ∧ a.initialMode = mode.toNat ∧ a.preference = pref.toNat ∧
         a.uplinkGain = up.toNat ∧ a.downlinkGain = down.toNat ∧ a.followRequests = options.getLsbD 0 ∧
         a.suppression = options.getLsbD 1 ∧ a.threshold = 256 * t1.toNat + t0.toNat) ∧
     (law ≠ 0 → law ≠ 1 → parseOpen args = none) ∧
     ∀ other : List Byte, other.length ≠ 16 → parseOpen other = none)

/-- MODIFY of an OPEN context (1.5, 11.3): its present parts replace the parts waiting in the pending record, and nothing else
changes; the refusals come in their order. The presence flags of MODIFY and its fields (1.5, 11.3): with every flag set the
nine bytes are read in order and clamped, with none set nothing is present; with any flags, the field of a set flag stands
behind the fields of the set flags below it, and the part of a clear flag is absent; a length that does not match the flags is
refused. -/
def Obligations.ModifyFillsPendingRecord : Prop :=
  (∀ (s : State) (env : Envelope) (args : List Byte), s.running → args.length ≤ 252 →
     (parseModify args = none → exec (.modify env args) s = .next (s.answer env .modify .badArgument [])) ∧
     ∀ (m : ModifyArgs) (empty : Prop), parseModify args = some m →
       (empty ↔ ∃ set, m.parts.allowed = some set ∧ set.two = false ∧ set.three = false ∧ set.four = false) →
       (191 < m.context → exec (.modify env args) s = .next (s.answer env .modify .badArgument [])) ∧
       (m.context ≤ 191 → (s.channel m.context).state ≠ .opened →
         exec (.modify env args) s = .next (s.answer env .modify .badState [])) ∧
       (m.context ≤ 191 → (s.channel m.context).state = .opened → empty →
         exec (.modify env args) s = .next (s.answer env .modify .badArgument [])) ∧
       (m.context ≤ 191 → (s.channel m.context).state = .opened → ¬empty →
         exec (.modify env args) s =
           .next
             ((s.updateChannel m.context fun c =>
                 { c with
                   waiting :=
                     { allowed := m.parts.allowed.or c.waiting.allowed,
                       target := m.parts.target.or c.waiting.target,
                       preference := m.parts.preference.or c.waiting.preference,
                       uplinkGain := m.parts.uplinkGain.or c.waiting.uplinkGain,
                       downlinkGain := m.parts.downlinkGain.or c.waiting.downlinkGain,
                       followRequests := m.parts.followRequests.or c.waiting.followRequests,
                       suppression := m.parts.suppression.or c.waiting.suppression,
                       threshold := m.parts.threshold.or c.waiting.threshold } }).answer
               env .modify .ok []))) ∧
  ((∀ (ctx allowed target pref up down follow suppression t1 t0 : Byte),
     ∃ m, parseModify [ctx, 0xFF, allowed, target, pref, up, down, follow, suppression, t1, t0] = some m ∧
       m.context = ctx.toNat ∧
       m.parts.allowed =
         some { two := allowed.getLsbD 0, three := allowed.getLsbD 1, four := allowed.getLsbD 2 } ∧
       m.parts.target = some (if target.toNat ≤ 2 then .two else if target.toNat = 3 then .three else .four) ∧
       m.parts.preference =
         some
           (if pref.toNat = 0 then none
            else some (if pref.toNat ≤ 2 then .two else if pref.toNat = 3 then .three else .four)) ∧
       m.parts.uplinkGain.map Fin.val = some (min up.toNat 31) ∧
       m.parts.downlinkGain.map Fin.val = some (min down.toNat 31) ∧
       m.parts.followRequests = some (follow.getLsbD 0) ∧ m.parts.suppression = some (suppression.getLsbD 0) ∧
       m.parts.threshold = some (min (256 * t1.toNat + t0.toNat) 32767)) ∧
   (∀ ctx : Byte, parseModify [ctx, 0x00] = some { context := ctx.toNat, parts := PendingRecord.empty }) ∧
   (∀ ctx target t1 t0 : Byte,
     parseModify [ctx, 0x82, target, t1, t0] =
       some
         { context := ctx.toNat,
           parts :=
             { PendingRecord.empty with
               target := some (if target.toNat ≤ 2 then .two else if target.toNat = 3 then .three else .four),
               threshold := some (min (256 * t1.toNat + t0.toNat) 32767) } }) ∧
   (∀ (ctx flags : Byte) (fields : List Byte) (place : Nat → Nat),
     (∀ i, place i = ((List.range i).filter fun j => flags.getLsbD j).length) →
     fields.length = place 7 + (if flags.getLsbD 7 then 2 else 0) →
     ∃ m, parseModify (ctx :: flags :: fields) = some m ∧ m.context = ctx.toNat ∧
       (flags.getLsbD 0 = false → m.parts.allowed = none) ∧ (flags.getLsbD 1 = false → m.parts.target = none) ∧
       (flags.getLsbD 2 = false → m.parts.preference = none) ∧ (flags.getLsbD 3 = false → m.parts.uplinkGain = none) ∧
       (flags.getLsbD 4 = false → m.parts.downlinkGain = none) ∧
       (flags.getLsbD 5 = false → m.parts.followRequests = none) ∧
       (flags.getLsbD 6 = false → m.parts.suppression = none) ∧ (flags.getLsbD 7 = false → m.parts.threshold = none) ∧
       ∀ b : Byte,
         (flags.getLsbD 0 = true → fields[place 0]? = some b →
           m.parts.allowed = some { two := b.getLsbD 0, three := b.getLsbD 1, four := b.getLsbD 2 }) ∧
         (flags.getLsbD 1 = true → fields[place 1]? = some b →
           m.parts.target = some (if b.toNat ≤ 2 then .two else if b.toNat = 3 then .three else .four)) ∧
         (flags.getLsbD 2 = true → fields[place 2]? = some b →
           m.parts.preference =
             some
               (if b.toNat = 0 then none
                else some (if b.toNat ≤ 2 then .two else if b.toNat = 3 then .three else .four))) ∧
         (flags.getLsbD 3 = true → fields[place 3]? = some b →
           m.parts.uplinkGain.map Fin.val = some (min b.toNat 31)) ∧
         (flags.getLsbD 4 = true → fields[place 4]? = some b →
           m.parts.downlinkGain.map Fin.val = some (min b.toNat 31)) ∧
         (flags.getLsbD 5 = true → fields[place 5]? = some b → m.parts.followRequests = some (b.getLsbD 0)) ∧
         (flags.getLsbD 6 = true → fields[place 6]? = some b → m.parts.suppression = some (b.getLsbD 0)) ∧
         ∀ low : Byte, flags.getLsbD 7 = true → fields[place 7]? = some b → fields[place 7 + 1]? = some low →
           m.parts.threshold = some (min (256 * b.toNat + low.toNat) 32767)) ∧
   ∀ (ctx flags : Byte) (fields : List Byte),
     fields.length ≠ ((List.range 7).filter fun i => flags.getLsbD i).length + (if flags.getLsbD 7 then 2 else 0) →
     parseModify (ctx :: flags :: fields) = none)

/-- CLOSE (1.6): the context becomes CLOSING, a second CLOSE is answered OK and changes nothing; the refusals change
nothing. -/
def Obligations.CloseBeginsClosing : Prop :=
  ∀ (s : State) (env : Envelope) (args : List Byte), s.running → args.length ≤ 252 →
    (args.length ≠ 1 → exec (.close env args) s = .next (s.answer env .close .badArgument [])) ∧
    ∀ b : Byte, args = [b] →
      (191 < b.toNat → exec (.close env args) s = .next (s.answer env .close .badArgument [])) ∧
      (b.toNat ≤ 191 → (s.channel b.toNat).state = .free →
        exec (.close env args) s = .next (s.answer env .close .badState [])) ∧
      (b.toNat ≤ 191 → (s.channel b.toNat).state = .opened →
        exec (.close env args) s =
          .next ((s.updateChannel b.toNat fun c => { c with state := .closing }).answer env .close .ok [])) ∧
      (b.toNat ≤ 191 → (s.channel b.toNat).state = .closing →
        exec (.close env args) s = .next (s.answer env .close .ok []))

/-- CONTEXT REPORT (10.4, 11.4): the fields in their order; the eleven counters are cleared and the minimum quality goes back
to 15 as they are read. The pending presence byte (10.4, 11.4): one bit for each part, in the order of MODIFY's presence
flags. -/
def Obligations.ContextReportReadsAndClears : Prop :=
  (∀ (s : State) (env : Envelope) (args : List Byte), s.running → args.length ≤ 252 →
    (args.length ≠ 1 → exec (.contextReport env args) s = .next (s.answer env .contextReport .badArgument [])) ∧
    ∀ (b : Byte) (c : Channel), args = [b] → c = s.channel b.toNat →
      (191 < b.toNat → exec (.contextReport env args) s = .next (s.answer env .contextReport .badArgument [])) ∧
      (b.toNat ≤ 191 → c.state = .free →
        exec (.contextReport env args) s = .next (s.answer env .contextReport .badState [])) ∧
      (b.toNat ≤ 191 → c.state ≠ .free →
        ∃ counters : ContextCounters, counters.toList = List.replicate 11 0 ∧
          exec (.contextReport env args) s =
            .next
              ((s.updateChannel b.toNat fun c =>
                  { c with counters := counters, playout := { c.playout with minQuality := 15 } }).answer
                env .contextReport .ok
                ([if c.state = .opened then 1 else 2,
                    match c.playout.state with | .priming => 0 | .playing => 1 | .silent => 2,
                    if c.playout.health.health = .present then 1 else 0,
                    BitVec.ofNat 8 c.applied.mode.width, BitVec.ofNat 8 c.applied.target.width, c.waiting.presence,
                    BitVec.ofNat 8 c.playout.queue.length, c.playout.nextSeq,
                    BitVec.ofNat 8 c.playout.lastQuality.toNat, BitVec.ofNat 8 c.playout.minQuality.toNat] ++
                  [c.counters.good, c.counters.damaged, c.counters.lost, c.counters.late, c.counters.duplicate,
                    c.counters.resync, c.counters.resyncDropped, c.counters.engineLate, c.counters.clip,
                    c.counters.unitsSent, c.counters.suppressed].flatMap
                    fun k => [BitVec.ofNat 8 (k / 256), BitVec.ofNat 8 k])))) ∧
  ∀ p : PendingRecord,
    p.presence.getLsbD 0 = p.allowed.isSome ∧ p.presence.getLsbD 1 = p.target.isSome ∧
      p.presence.getLsbD 2 = p.preference.isSome ∧ p.presence.getLsbD 3 = p.uplinkGain.isSome ∧
      p.presence.getLsbD 4 = p.downlinkGain.isSome ∧ p.presence.getLsbD 5 = p.followRequests.isSome ∧
      p.presence.getLsbD 6 = p.suppression.isSome ∧ p.presence.getLsbD 7 = p.threshold.isSome

/-- WRITE TABLE of STEP, GAIN and FADE entries (6.3, 6.4, 9.4): each value in its range is stored, the cursor follows, and a
write past the table's end stores what fits and answers TABLE-END; STEP is written in STANDBY alone. -/
def Obligations.WriteTableStoresClampedValues : Prop :=
  ∀ (s : State) (env : Envelope) (start : Byte) (entries : List (Byte × Byte)) (args : List Byte) (stored : Nat → Nat → Nat),
    s.running → entries ≠ [] → entries.length ≤ 125 → args = entries.flatMap (fun e => [e.1, e.2]) →
    (∀ low k, stored low k =
      match entries[k]? with
      | some e => max low (min (256 * e.1.toNat + e.2.toNat) 16383)
      | none => 0) →
    (start.toNat < 48 → s.management.device = .standby →
      ∃ table : Vector Nat 48,
        (∀ i : Fin 48, table[i] =
          if start.toNat ≤ i.val ∧ i.val < start.toNat + entries.length then stored 1 (i.val - start.toNat)
          else s.tables.step[i]) ∧
        exec (.writeTable env (1 :: start :: args)) s =
          .next
            (({ s with
                tables := { s.tables with step := table },
                management :=
                  { s.management with
                    cursor := { table := .step, index := min 48 (start.toNat + entries.length) } } } : State).answer
              env .writeTable (if start.toNat + entries.length ≤ 48 then .ok else .tableEnd)
              [BitVec.ofNat 8 (min entries.length (48 - start.toNat))])) ∧
    (start.toNat < 32 →
      ∃ table : Vector Nat 32,
        (∀ i : Fin 32, table[i] =
          if start.toNat ≤ i.val ∧ i.val < start.toNat + entries.length then stored 0 (i.val - start.toNat)
          else s.tables.gain[i]) ∧
        exec (.writeTable env (2 :: start :: args)) s =
          .next
            (({ s with
                tables := { s.tables with gain := table },
                management :=
                  { s.management with
                    cursor := { table := .gain, index := min 32 (start.toNat + entries.length) } } } : State).answer
              env .writeTable (if start.toNat + entries.length ≤ 32 then .ok else .tableEnd)
              [BitVec.ofNat 8 (min entries.length (32 - start.toNat))])) ∧
    (start.toNat < 6 →
      ∃ table : Vector Nat 6,
        (∀ i : Fin 6, table[i] =
          if start.toNat ≤ i.val ∧ i.val < start.toNat + entries.length then stored 0 (i.val - start.toNat)
          else s.tables.fade[i]) ∧
        exec (.writeTable env (3 :: start :: args)) s =
          .next
            (({ s with
                tables := { s.tables with fade := table },
                management :=
                  { s.management with
                    cursor := { table := .fade, index := min 6 (start.toNat + entries.length) } } } : State).answer
              env .writeTable (if start.toNat + entries.length ≤ 6 then .ok else .tableEnd)
              [BitVec.ofNat 8 (min entries.length (6 - start.toNat))]))

/-- WRITE TABLE of window entries (3.3, 9.4): legal entries are stored up to the first refused one, on which the cursor rests
with BAD-ARGUMENT and the count written; without a refusal the table's end bounds the write, and an entry past window 31 is
not looked at, legal or not: the answer is TABLE-END. -/
def Obligations.WindowWriteStopsAtRefusedEntry : Prop :=
  ∀ (s : State) (env : Envelope) (start : Byte) (good : List Window) (args : List Byte) (n : Nat), s.running →
    (∀ w ∈ good, w.base.toNat ≤ w.limit.toNat ∧ w.first ≤ 191) → start.toNat < 32 →
    args = good.flatMap (fun w =>
      [if w.valid then 1 else 0, BitVec.ofNat 8 (w.base.toNat / 256), BitVec.ofNat 8 w.base.toNat,
        BitVec.ofNat 8 (w.limit.toNat / 256), BitVec.ofNat 8 w.limit.toNat, BitVec.ofNat 8 w.first]) →
    n = min good.length (32 - start.toNat) →
    ∃ table : Vector Window 32,
      (∀ i : Fin 32, ∀ w : Window,
        (start.toNat ≤ i.val → i.val < start.toNat + good.length → good[i.val - start.toNat]? = some w →
          table[i] = w) ∧
        (i.val < start.toNat ∨ start.toNat + good.length ≤ i.val → table[i] = s.tables.window[i])) ∧
      (good ≠ [] → good.length ≤ 41 →
        exec (.writeTable env (4 :: start :: args)) s =
          .next
            (({ s with
                tables := { s.tables with window := table },
                management := { s.management with cursor := { table := .window, index := start.toNat + n } } } :
              State).answer
              env .writeTable (if start.toNat + good.length ≤ 32 then .ok else .tableEnd) [BitVec.ofNat 8 n])) ∧
      (∀ (past rest : List Byte), 32 ≤ start.toNat + good.length → past.length = 6 → rest.length % 6 = 0 →
        args.length + rest.length ≤ 244 →
        exec (.writeTable env (4 :: start :: (args ++ past ++ rest))) s =
          .next
            (({ s with
                tables := { s.tables with window := table },
                management := { s.management with cursor := { table := .window, index := 32 } } } : State).answer
              env .writeTable .tableEnd [BitVec.ofNat 8 (32 - start.toNat)])) ∧
      ∀ (valid b1 b0 l1 l0 first : Byte) (rest : List Byte),
        ¬((valid = 0 ∨ valid = 1) ∧ 256 * b1.toNat + b0.toNat ≤ 256 * l1.toNat + l0.toNat ∧ first.toNat ≤ 191) →
        start.toNat + good.length < 32 → rest.length % 6 = 0 → args.length + rest.length ≤ 244 →
        exec (.writeTable env (4 :: start :: (args ++ [valid, b1, b0, l1, l0, first] ++ rest))) s =
          .next
            (({ s with
                tables := { s.tables with window := table },
                management :=
                  { s.management with cursor := { table := .window, index := start.toNat + good.length } } } :
              State).answer
              env .writeTable .badArgument [BitVec.ofNat 8 good.length])

/-- A write of Settings entries, one or more, from any start (2.2, 8.2, 9.4): each value is brought into its entry's range and
stored up to the table's end, the cursor follows, and a write past the end answers TABLE-END; a change of entry 0 or 1 resets
supervision without a flag, and every other write leaves supervision alone. A write that reaches entry 0 or 1 is one in
STANDBY. -/
def Obligations.SettingsWriteClampsAndResupervises : Prop :=
  ∀ (s : State) (env : Envelope) (start n : Nat) (values : List Byte) (stored : Nat → Nat), s.running → start < 8 →
    values ≠ [] → values.length ≤ 250 → s.management.device = .standby ∨ 2 ≤ start →
    n = min values.length (8 - start) →
    (∀ (i : Nat) (v : Byte), start ≤ i → values[i - start]? = some v →
      stored i =
        (match i with
         | 0 => min v.toNat 1
         | 1 => min v.toNat 3
         | 6 => max 1 (min v.toNat 8)
         | 7 => max 1 (min v.toNat 16)
         | _ => min v.toNat 7)) →
    ∃ (table : Vector Nat 8) (highway : HighwayPort),
      (∀ i : Fin 8, table[i] = if start ≤ i.val ∧ i.val < start + n then stored i.val else s.tables.settings[i]) ∧
      exec (.writeTable env (5 :: BitVec.ofNat 8 start :: values)) s =
        .next
          (({ s with
              tables := { s.tables with settings := table },
              highway := highway,
              management := { s.management with cursor := { table := .settings, index := start + n } } } : State).answer
            env .writeTable (if start + values.length ≤ 8 then .ok else .tableEnd) [BitVec.ofNat 8 n]) ∧
      ((∀ i : Fin 8, i.val < 2 → table[i] = s.tables.settings[i]) → highway = s.highway) ∧
      ((∃ i : Fin 8, i.val < 2 ∧ table[i] ≠ s.tables.settings[i]) →
        highway = { s.highway with highways := highway.highways, tickSource := .internal } ∧
          ∀ k : Fin 4,
            highway.highways[k] =
              { s.highway.highways[k] with locked := false, goodCount := 0, badCount := 0, lastPulse := none })

/-- The refusals of WRITE TABLE, and WRITE NEXT as the same write from the cursor (9.4): a table number other than 1 to 5, a
start not below the entry count or bytes that are not whole entries give BAD-ARGUMENT; a class S write outside STANDBY gives
NOT-IN-STANDBY; a cursor at the table's end writes nothing and answers TABLE-END. -/
def Obligations.TableWritesRefuseAndContinue : Prop :=
  ∀ (s : State) (env : Envelope) (args : List Byte) (id : TableId) (number start : Byte), s.running →
    args.length ≤ 250 → TableId.ofByte? number = some id →
    (∀ other : Byte, TableId.ofByte? other = none →
      exec (.writeTable env (other :: start :: args)) s = .next (s.answer env .writeTable .badArgument [])) ∧
    (args.length < 2 → exec (.writeTable env args) s = .next (s.answer env .writeTable .badArgument [])) ∧
    (id.size ≤ start.toNat ∨ args = [] ∨ args.length % id.entryLength ≠ 0 →
      exec (.writeTable env (number :: start :: args)) s = .next (s.answer env .writeTable .badArgument [])) ∧
    (start.toNat < id.size → args ≠ [] → args.length % id.entryLength = 0 → s.management.device = .operating →
      id = .step ∨ (id = .settings ∧ start.toNat < 2) →
      exec (.writeTable env (number :: start :: args)) s = .next (s.answer env .writeTable .notInStandby [])) ∧
    (s.management.cursor.table = id →
      (s.management.cursor.index = start.toNat → start.toNat < id.size →
        ∃ (u : State) (result : Result) (data : List Byte),
          exec (.writeNext env args) s = .next (u.answer env .writeNext result data) ∧
            exec (.writeTable env (number :: start :: args)) s = .next (u.answer env .writeTable result data)) ∧
      (s.management.cursor.index = id.size → args ≠ [] → args.length % id.entryLength = 0 →
        exec (.writeNext env args) s = .next (s.answer env .writeNext .tableEnd [0])) ∧
      (args = [] ∨ args.length % id.entryLength ≠ 0 →
        exec (.writeNext env args) s = .next (s.answer env .writeNext .badArgument [])))

/-- READ TABLE and READ NEXT (9.4, 11.6): the count asked for, or what lies before the table's end, each entry in its layout,
the cursor moved by as many; the refusals move nothing. -/
def Obligations.TableReadsReturnEntries : Prop :=
  (∀ (s : State) (env : Envelope) (number start count : Byte) (id : TableId), s.running →
    TableId.ofByte? number = some id →
    (start.toNat < id.size → count ≠ 0 →
      exec (.readTable env [number, start, count]) s =
        .next
          (({ s with
              management :=
                { s.management with
                  cursor := { table := id, index := min id.size (start.toNat + count.toNat) } } } : State).answer
            env .readTable .ok
            ((List.range (min count.toNat (id.size - start.toNat))).flatMap fun k =>
              s.tables.entryBytes id (start.toNat + k)))) ∧
    (id.size ≤ start.toNat ∨ count = 0 →
      exec (.readTable env [number, start, count]) s = .next (s.answer env .readTable .badArgument [])) ∧
    (s.management.cursor.table = id → s.management.cursor.index ≤ id.size → count ≠ 0 →
      exec (.readNext env [count]) s =
        .next
          (({ s with
              management :=
                { s.management with
                  cursor := { table := id, index := min id.size (s.management.cursor.index + count.toNat) } } } :
            State).answer
            env .readNext .ok
            ((List.range (min count.toNat (id.size - s.management.cursor.index))).flatMap fun k =>
              s.tables.entryBytes id (s.management.cursor.index + k)))) ∧
    exec (.readNext env [0]) s = .next (s.answer env .readNext .badArgument [])) ∧
  (∀ (s : State) (env : Envelope) (args : List Byte), s.running → args.length ≤ 252 →
    (args.length ≠ 3 ∨ (∃ t, args.head? = some t ∧ TableId.ofByte? t = none) →
      exec (.readTable env args) s = .next (s.answer env .readTable .badArgument [])) ∧
    (args.length ≠ 1 → exec (.readNext env args) s = .next (s.answer env .readNext .badArgument []))) ∧
  ∀ t : Tables,
    (∀ i : Fin 48, t.entryBytes .step i = [BitVec.ofNat 8 (t.step[i] / 256), BitVec.ofNat 8 t.step[i]]) ∧
    (∀ i : Fin 32, t.entryBytes .gain i = [BitVec.ofNat 8 (t.gain[i] / 256), BitVec.ofNat 8 t.gain[i]]) ∧
    (∀ i : Fin 6, t.entryBytes .fade i = [BitVec.ofNat 8 (t.fade[i] / 256), BitVec.ofNat 8 t.fade[i]]) ∧
    (∀ i : Fin 32, t.entryBytes .window i =
      [if t.window[i].valid then 1 else 0, BitVec.ofNat 8 (t.window[i].base.toNat / 256),
        BitVec.ofNat 8 t.window[i].base.toNat, BitVec.ofNat 8 (t.window[i].limit.toNat / 256),
        BitVec.ofNat 8 t.window[i].limit.toNat, BitVec.ofNat 8 t.window[i].first]) ∧
    ∀ i : Fin 8, t.entryBytes .settings i = [BitVec.ofNat 8 t.settings[i]]

/-- READ STATUS (10.3, 11.4): the status fields and the twelve device counters, which are cleared as they are read; an argument
is refused and clears nothing. That bits 7 to 4 of the lock-state byte and bits 6 to 2 of the trace byte are 0 is the model's
choice (log 18): 11.4 names the other bits alone. -/
def Obligations.ReadStatusReadsAndClears : Prop :=
  ∀ (s : State) (env : Envelope) (args : List Byte), s.running → args.length ≤ 252 →
    (args = [] →
      ∃ counters : DeviceCounters, counters.toList = List.replicate 12 0 ∧
        exec (.readStatus env args) s =
          .next
            (({ s with status := { s.status with counters := counters } } : State).answer env .readStatus .ok
              ([if s.management.device = .standby then 1 else 2, if s.stagingHold then 1 else 0,
                  BitVec.ofNat 8
                    ((if s.highway.highways[0].locked then 1 else 0) + (if s.highway.highways[1].locked then 2 else 0) +
                      (if s.highway.highways[2].locked then 4 else 0) +
                      if s.highway.highways[3].locked then 8 else 0),
                  if s.tables.setting 0 = 1 ∧ s.referenceHighway.locked = false then 1 else 0,
                  match s.trace with
                  | .idle _ aborted => if aborted then 0x80 else 0
                  | .armed _ => 1
                  | .filled _ _ => 2,
                  s.status.flags, s.status.mask] ++
                [s.status.counters.checkFailuresA, s.status.counters.checkFailuresB, s.status.counters.unclaimed,
                  s.status.counters.badKind, s.status.counters.malformed, s.status.counters.closedContext,
                  s.status.counters.aToBDrops, s.status.counters.bToADrops, s.status.counters.originatedDrops,
                  s.status.counters.stale, s.status.counters.responsesLost,
                  s.status.counters.originatedSent].flatMap
                  fun k => [BitVec.ofNat 8 (k / 256), BitVec.ofNat 8 k]))) ∧
    (args ≠ [] → exec (.readStatus env args) s = .next (s.answer env .readStatus .badArgument []))

/-- CLEAR FLAGS clears the flags whose bits are 1, SET NOTICE MASK replaces the mask; neither touches notice-wanted (10.1,
10.3). An argument of another length is refused. A flag event (10.1): the flag's bit is set and no other, and notice-wanted is
set when an unmasked flag goes from clear to set; the mask, the list, the counters and every other block stay as they are. -/
def Obligations.FlagsMaskAndNoticeWanted : Prop :=
  (∀ (s : State) (env : Envelope) (args : List Byte), s.running → args.length ≤ 252 →
     (∀ b : Byte, args = [b] →
       (∃ flags : Byte, (∀ k, flags.getLsbD k = (s.status.flags.getLsbD k && !b.getLsbD k)) ∧
         exec (.clearFlags env args) s =
           .next (({ s with status := { s.status with flags := flags } } : State).answer env .clearFlags .ok [])) ∧
       exec (.setNoticeMask env args) s =
         .next (({ s with status := { s.status with mask := b } } : State).answer env .setNoticeMask .ok [])) ∧
     (args.length ≠ 1 →
       exec (.clearFlags env args) s = .next (s.answer env .clearFlags .badArgument []) ∧
       exec (.setNoticeMask env args) s = .next (s.answer env .setNoticeMask .badArgument []))) ∧
  (∀ (s : State) (f : Flag),
     (∀ k, (s.raise f).status.flags.getLsbD k = (s.status.flags.getLsbD k || k == f.bit)) ∧
     ((s.raise f).status.noticeWanted = true ↔
       s.status.noticeWanted = true ∨ (s.status.flags.getLsbD f.bit = false ∧ s.status.mask.getLsbD f.bit = false)) ∧
     s.raise f =
       { s with
         status :=
           { s.status with
             flags := (s.raise f).status.flags, noticeWanted := (s.raise f).status.noticeWanted } })

/-- TRACE ARM (10.5): on an OPEN context the record is re-made, whatever it held; the refusals leave it. TRACE READ (10.5,
11.4): of a FILLED record, the samples asked for (at most 48, at most what is left) with FIRST and LAST; the record stays as
it is. That bits 7 to 2 of the indications byte are 0 is the model's choice (log 18): 11.4 names bits 0 and 1 alone. -/
def Obligations.TraceCommands : Prop :=
  (∀ (s : State) (env : Envelope) (args : List Byte), s.running → args.length ≤ 252 →
     (args.length ≠ 2 → exec (.traceArm env args) s = .next (s.answer env .traceArm .badArgument [])) ∧
     ∀ ctx point : Byte, args = [ctx, point] →
       (point ≠ 1 → point ≠ 2 → exec (.traceArm env args) s = .next (s.answer env .traceArm .badArgument [])) ∧
       (191 < ctx.toNat → exec (.traceArm env args) s = .next (s.answer env .traceArm .badArgument [])) ∧
       (point = 1 ∨ point = 2 → ctx.toNat ≤ 191 → (s.channel ctx.toNat).state ≠ .opened →
         exec (.traceArm env args) s = .next (s.answer env .traceArm .badState [])) ∧
       (point = 1 ∨ point = 2 → ctx.toNat ≤ 191 → (s.channel ctx.toNat).state = .opened →
         exec (.traceArm env args) s =
           .next
             (({ s with
                 trace :=
                   .armed
                     { context := ctx.toNat, point := if point = 1 then .uplink else .downlink,
                       generation := (s.channel ctx.toNat).generation } } : State).answer
               env .traceArm .ok []))) ∧
  (∀ (s : State) (env : Envelope) (args : List Byte), s.running → args.length ≤ 252 →
     (args.length ≠ 2 → exec (.traceRead env args) s = .next (s.answer env .traceRead .badArgument [])) ∧
     ∀ (offset count : Byte) (n : Nat), args = [offset, count] → n = min (min count.toNat 48) (160 - offset.toNat) →
       (159 < offset.toNat ∨ count = 0 →
         exec (.traceRead env args) s = .next (s.answer env .traceRead .badArgument [])) ∧
       (offset.toNat ≤ 159 → count ≠ 0 → (∀ a samples, s.trace ≠ .filled a samples) →
         exec (.traceRead env args) s = .next (s.answer env .traceRead .badState [])) ∧
       (∀ a samples, offset.toNat ≤ 159 → count ≠ 0 → s.trace = .filled a samples →
         exec (.traceRead env args) s =
           .next
             (s.answer env .traceRead .ok
               ([(if offset.toNat = 0 then 1 else 0) + (if offset.toNat + n = 160 then 2 else 0),
                   BitVec.ofNat 8 a.context, if a.point = .uplink then 1 else 2, a.generation] ++
                 ((samples.drop offset.toNat).take n).flatMap fun x =>
                   [BitVec.ofInt 8 (x / 256), BitVec.ofInt 8 x]))))

/-- A command list (9.1, 9.2), command by command: the walk, the response space, the code, then the command's own reply; the
list ends at its end, at a malformed command or at truncation, and one RESPONSE of the tag and the records is offered. An empty
payload is counted and not answered. The full records of the response space (9.2, 9.4, 11.4): 3 bytes and the data of the
command's success, from its code and arguments alone; 3 bytes where a number the computation needs is missing or out of
range. -/
def Obligations.CommandListIsWalkedInOrder : Prop :=
  (∀ (s : State) (seq : Byte),
    s.control seq [] = s.count fun c => { c with malformed := min 65535 (c.malformed + 1) }) ∧
  (∀ (s : State) (seq tag : Byte) (list : List Byte) (r : ListRun),
    r = runCommands list.length 1 list { state := s, records := [], restart := false } →
    s.control seq (tag :: list) = r.state.respond seq (tag :: r.records) r.restart) ∧
  (∀ (s : State) (args : List Byte),
    fullRecordOf 0x01 args s = 16 ∧ fullRecordOf 0x30 args s = 34 ∧ fullRecordOf 0x13 args s = 35 ∧
    (∀ code ∈ ([0x20, 0x21] : List Byte), fullRecordOf code args s = 4) ∧
    (∀ code ∈ ([0x02, 0x03, 0x04, 0x05, 0x10, 0x11, 0x12, 0x31, 0x32, 0x40] : List Byte), fullRecordOf code args s = 3) ∧
    (∀ code : Byte, (∀ c : Command, c.code ≠ code) → fullRecordOf code args s = 3) ∧
    (args.length < 3 → fullRecordOf 0x22 args s = 3) ∧ fullRecordOf 0x23 [] s = 3 ∧
    (args.length < 2 → fullRecordOf 0x41 args s = 3) ∧
    ∀ (b0 b1 b2 : Byte),
      (∀ id : TableId, TableId.ofByte? b0 = some id →
        (b1.toNat < id.size → b2 ≠ 0 →
          fullRecordOf 0x22 (b0 :: b1 :: b2 :: args) s = 3 + min b2.toNat (id.size - b1.toNat) * id.entryLength) ∧
        (id.size ≤ b1.toNat ∨ b2 = 0 → fullRecordOf 0x22 (b0 :: b1 :: b2 :: args) s = 3)) ∧
      (TableId.ofByte? b0 = none → fullRecordOf 0x22 (b0 :: b1 :: b2 :: args) s = 3) ∧
      fullRecordOf 0x23 (b0 :: args) s =
        3 + min b0.toNat (s.management.cursor.table.size - s.management.cursor.index) *
          s.management.cursor.table.entryLength ∧
      (b0.toNat ≤ 159 → b1 ≠ 0 →
        fullRecordOf 0x41 (b0 :: b1 :: args) s = 7 + 2 * min (min b1.toNat 48) (160 - b0.toNat)) ∧
      (159 < b0.toNat ∨ b1 = 0 → fullRecordOf 0x41 (b0 :: b1 :: args) s = 3)) ∧
  (TableId.step.size = 48 ∧ TableId.gain.size = 32 ∧ TableId.fade.size = 6 ∧ TableId.window.size = 32 ∧
    TableId.settings.size = 8 ∧ TableId.step.entryLength = 2 ∧ TableId.gain.entryLength = 2 ∧
    TableId.fade.entryLength = 2 ∧ TableId.window.entryLength = 6 ∧ TableId.settings.entryLength = 1) ∧
  ∀ (turns position : Nat) (r : ListRun),
    runCommands turns position [] r = r ∧
    (∀ code : Byte, 1 ≤ turns →
      runCommands turns position [code] r =
        { state := r.state.count fun c => { c with malformed := min 65535 (c.malformed + 1) },
          records := r.records ++ [code, 0x08, 0], restart := r.restart }) ∧
    ∀ (code len : Byte) (rest args tail : List Byte), (code :: len :: rest).length ≤ turns →
      (rest.length < len.toNat →
        runCommands turns position (code :: len :: rest) r =
          { state := r.state.count fun c => { c with malformed := min 65535 (c.malformed + 1) },
            records := r.records ++ [code, 0x08, 0], restart := r.restart }) ∧
      (rest = args ++ tail → args.length = len.toNat →
        (251 < 1 + r.records.length + fullRecordOf code args r.state →
          runCommands turns position (code :: len :: rest) r =
            { r with records := r.records ++ [code, 0x0A, 1, BitVec.ofNat 8 position] }) ∧
        (1 + r.records.length + fullRecordOf code args r.state ≤ 251 →
          ((∀ c : Command, c.code ≠ code) →
            runCommands turns position (code :: len :: rest) r =
              runCommands turns (position + 1) tail { r with records := r.records ++ [code, 0x09, 0] }) ∧
          ∀ (c : Command) (reply : Reply), c.code = code → reply = c.run tail.isEmpty args r.state →
            runCommands turns position (code :: len :: rest) r =
              runCommands turns (position + 1) tail
                { state := reply.state,
                  records :=
                    r.records ++ [code, reply.result.code, BitVec.ofNat 8 reply.data.length] ++ reply.data,
                  restart := r.restart || reply.restart }))

/-! ## The Transcoding Engine's completions (5.6, 7.3 to 7.5) -/

/-- A DECODE run that delivers (5.6, 2.5, 10.5): predictor committed, codes in the next buffer, clips counted, samples captured
by a trace ARMED for them with TRACE-DONE and no other flag, and notice-wanted where an unmasked flag goes from clear to set
(10.1); then the engine takes its next job. -/
def Obligations.DecodeCompletionDelivers : Prop :=
  ∀ (s : State) (r : Run) (n : Nat) (c : Channel), s.running → s.engine.current = some r → n = r.job.context →
    c = s.channel n → r.job.work.kind = .decode → r.job.void = false → r.job.generation = c.generation →
    c.state ≠ .free →
    ∃ u : State, exec .decodeCompletion s = .next u.takeJob ∧
      u.engine = { s.engine with current := none } ∧
      u.channel n =
        { c with
          codec := { c.codec with decoder := r.decode.predictor },
          buffers := { c.buffers with next := r.decode.codes, filled := true },
          counters := { c.counters with clip := min 65535 (c.counters.clip + r.decode.clips) } } ∧
      (∀ m, m ≠ n → u.channel m = s.channel m) ∧
      (∀ a : Arming, s.trace = .armed a → a.context = n → a.point = .uplink → a.generation = r.job.generation →
        u.trace = .filled a r.decode.samples ∧ u.status.flags.getLsbD 7 = true ∧
          (∀ k, k ≠ 7 → u.status.flags.getLsbD k = s.status.flags.getLsbD k) ∧ s.status.NoticeFollows u.status ∧
          u.status.mask = s.status.mask ∧ u.status.counters = s.status.counters ∧
          u.status.healthChanged = s.status.healthChanged) ∧
      ((∀ a : Arming, s.trace = .armed a → ¬(a.context = n ∧ a.point = .uplink ∧ a.generation = r.job.generation)) →
        u.trace = s.trace ∧ u.status = s.status) ∧
      u.management = s.management ∧ u.highway = s.highway ∧ u.links = s.links ∧ u.tables = s.tables ∧
      u.stagingHold = s.stagingHold ∧ u.pending = s.pending

/-- An ENCODE run that delivers (5.6, 7.5): encoder state committed and clips counted, the unit offered and units-sent counted
or suppressed counted, and the gained samples captured by a trace ARMED for them; then the engine takes its next job. -/
def Obligations.EncodeCompletionDelivers : Prop :=
  ∀ (s : State) (r : Run) (w : EncodeWork) (n : Nat) (c : Channel) (committed offered : State), s.running →
    s.engine.current = some r → r.job.work = .encode w → n = r.job.context → c = s.channel n → r.job.void = false →
    r.job.generation = c.generation → c.state ≠ .free →
    committed =
      s.updateChannel n (fun c =>
        { c with
          codec := { c.codec with encoder := (r.encode w).encoder },
          counters :=
            { c.counters with
              clip := min 65535 (c.counters.clip + (r.encode w).clips),
              unitsSent := min 65535 (c.counters.unitsSent + if (r.encode w).unit = none then 0 else 1),
              suppressed := min 65535 (c.counters.suppressed + if (r.encode w).unit = none then 1 else 0) } }) →
    offered =
      (match (r.encode w).unit with
       | none => committed
       | some (kind, bytes) => committed.offerSpeech kind bytes) →
    (∀ a : Arming, s.trace = .armed a → a.context = n → a.point = .downlink → a.generation = r.job.generation →
      exec .encodeCompletion s =
        .next
          (({ offered with
              trace := .filled a (r.encode w).samples, engine := { offered.engine with current := none } } :
            State).raise .traceDone).takeJob) ∧
    ((∀ a : Arming, s.trace = .armed a → ¬(a.context = n ∧ a.point = .downlink ∧ a.generation = r.job.generation)) →
      exec .encodeCompletion s =
        .next ({ offered with engine := { offered.engine with current := none } } : State).takeJob)

/-- A run that does not deliver (5.5, 5.6): a void job's, one of another generation or of a FREE context ends with nothing but
the engine's next taking. An end that has no such run changes nothing (the model's choice, log 5). -/
def Obligations.VoidRunsDeliverNothing : Prop :=
  ∀ s : State, s.running →
    (∀ r : Run, s.engine.current = some r →
      r.job.void = true ∨ r.job.generation ≠ (s.channel r.job.context).generation ∨
          (s.channel r.job.context).state = .free →
      exec .voidRunEnd s = .next ({ s with engine := { s.engine with current := none } } : State).takeJob ∧
        (r.job.work.kind = .decode →
          exec .decodeCompletion s =
              .next ({ s with engine := { s.engine with current := none } } : State).takeJob ∧
            exec .encodeCompletion s = .next s) ∧
        (r.job.work.kind = .encode →
          exec .encodeCompletion s =
              .next ({ s with engine := { s.engine with current := none } } : State).takeJob ∧
            exec .decodeCompletion s = .next s)) ∧
    (∀ r : Run, s.engine.current = some r → r.job.void = false →
      r.job.generation = (s.channel r.job.context).generation → (s.channel r.job.context).state ≠ .free →
      exec .voidRunEnd s = .next s) ∧
    (s.engine.current = none →
      exec .voidRunEnd s = .next s ∧ exec .decodeCompletion s = .next s ∧ exec .encodeCompletion s = .next s)

/-- What a DECODE run produces (6.7): a frame decoded, faded for CONCEAL(k), gained and companded; 160 idle codes and a
predictor of 0 for ZERO. How a frame is decoded (6.6): sample i from its code, the step value of its subblock of 40 and the
sample before it, by 15/16 of the predictor plus or minus half of (2q + 1) · S, each rounded down, then saturated; the last
sample is the predictor that stays, and every saturation counts. -/
def Obligations.DecodeRunsBySource : Prop :=
  (∀ (table : Vector Nat 48) (prev : Int) (f : Frame) (d : Decoded) (prior raw : Nat → Int), f.WellFormed →
    d = decodeFrame table prev f → prior 0 = prev → (∀ i, prior (i + 1) = max (-32768) (min 32767 (raw i))) →
    (∀ (i : Nat) (c : Code) (k : Fin 48), f.codes[i]? = some c → f.steps[i / 40]? = some k →
      raw i = (15 * prior i) >>> 4 + (if c.neg then -1 else 1) * (((2 * c.mag + 1) * table[k]) >>> 1 : Nat)) →
    (∀ i, i < 160 → d.samples[i]? = some (prior (i + 1))) ∧ d.samples.length = 160 ∧ d.predictor = prior 160 ∧
      d.clips = (List.range 160).countP fun i => decide (raw i < -32768) || decide (32767 < raw i)) ∧
  ∀ r : Run,
    (r.job.work = .zero →
      r.decode =
        { codes := List.replicate 160 r.job.law.idle, predictor := 0, samples := List.replicate 160 0, clips := 0 }) ∧
    (∀ f : Frame, r.job.work = .frame f →
      r.decode.samples = (scale r.gain (decodeFrame r.step r.codec.decoder f).samples).samples ∧
        r.decode.codes = r.decode.samples.map r.job.law.compand ∧
        r.decode.predictor = (decodeFrame r.step r.codec.decoder f).predictor ∧
        r.decode.clips =
          (decodeFrame r.step r.codec.decoder f).clips +
            (scale r.gain (decodeFrame r.step r.codec.decoder f).samples).clips ∧
        (f.WellFormed → r.decode.codes.length = 160)) ∧
    ∀ (k : Nat) (f : Frame) (d faded : List Int), r.job.work = .conceal k f →
      d = (decodeFrame r.step r.codec.decoder f).samples → faded = (scale r.fade d).samples →
      r.decode.samples = (scale r.gain faded).samples ∧ r.decode.codes = r.decode.samples.map r.job.law.compand ∧
        r.decode.predictor = (decodeFrame r.step r.codec.decoder f).predictor ∧
        r.decode.clips =
          (decodeFrame r.step r.codec.decoder f).clips + (scale r.fade d).clips + (scale r.gain faded).clips ∧
        (f.WellFormed → r.decode.codes.length = 160)

/-- The outcomes of an ENCODE run (7.2, 7.3): a cycle is silent where no gained sample passes the threshold; speech through
the hangover, a SILENCE unit at the fourth silent cycle and at every 24th of the silence after it, nothing between, and speech
again at the first active cycle. The units an ENCODE run builds (7.4, 7.5, 11.1): SPEECH with the coded frame, SILENCE without
a payload, each with the sequence read, which then steps; no unit keeps the sequence. -/
def Obligations.EncodeOutcomesAndUnits : Prop :=
  ((∀ (threshold : Nat) (xs : List Int), silentCycle threshold xs = true ↔ ∀ x ∈ xs, x.natAbs ≤ threshold) ∧
   ∀ (e : EncoderState) (silent : Bool),
     e.outcome false silent = (.speech, { e with suppression := .speaking, silenceRun := 0, refresh := 0 }) ∧
     (e.suppression = .speaking →
       e.outcome true false = (.speech, { e with silenceRun := 0 }) ∧
       (e.silenceRun + 1 < 4 → e.outcome true true = (.speech, { e with silenceRun := e.silenceRun + 1 })) ∧
       (4 ≤ e.silenceRun + 1 →
         e.outcome true true =
           (.silence,
             { e with
               silenceRun := min 255 (e.silenceRun + 1), predictor := 0, suppression := .suppressing, refresh := 0 }))) ∧
     (e.suppression = .suppressing →
       e.outcome true false = (.speech, { e with suppression := .speaking, silenceRun := 0 }) ∧
       (e.refresh + 1 < 24 → e.outcome true true = (.nothing, { e with refresh := e.refresh + 1 })) ∧
       (24 ≤ e.refresh + 1 → e.outcome true true = (.silence, { e with refresh := 0 })))) ∧
  (∀ (r : Run) (w : EncodeWork) (e : EncoderState) (gained : Scaled) (decision : Outcome × EncoderState) (request : Byte),
     e = r.codec.encoder → gained = scale r.gain (r.collected.map r.job.law.expand) →
     decision = e.outcome w.suppression (silentCycle w.threshold gained.samples) →
     request = (match w.preference with | none => 0x00 | some .two => 0x20 | some .three => 0x30 | some .four => 0x40) →
     (r.encode w).samples = gained.samples ∧
     (decision.1 = .nothing →
       (r.encode w).unit = none ∧ (r.encode w).encoder = decision.2 ∧ (r.encode w).clips = gained.clips) ∧
     (∀ front : List Byte, decision.1 = .silence →
       front = [BitVec.ofNat 8 (w.label.toNat / 256), BitVec.ofNat 8 w.label.toNat, 0x20, e.seq, request, 0x00] →
       (r.encode w).unit = some (.silence, front ++ [crc8 front]) ∧
         (r.encode w).encoder = { decision.2 with seq := e.seq + 1 } ∧ (r.encode w).clips = gained.clips) ∧
     (∀ (front payload : List Byte) (coded : Encoded), decision.1 = .speech →
       coded = encodeFrame r.step w.mode e.predictor gained.samples →
       payload = (coded.frame w.mode).payload → gained.samples.length = 160 →
       front =
         [BitVec.ofNat 8 (w.label.toNat / 256), BitVec.ofNat 8 w.label.toNat,
           match w.mode with | .two => 0x12 | .three => 0x13 | .four => 0x14, e.seq, request,
           match w.mode with | .two => 44 | .three => 64 | .four => 84] →
       (r.encode w).unit = some (.speech, front ++ [crc8 front] ++ payload) ∧
         (r.encode w).encoder = { decision.2 with predictor := coded.predictor, seq := e.seq + 1 } ∧
         (r.encode w).clips = gained.clips + coded.clips))

/-! ## Speech arithmetic and formats (Chapters 6 and 11) -/

/-- R110 and R111: law E. The segment is the place of the magnitude's highest bit. R112 and R113: law B. -/
def Obligations.CompandingLaws : Prop :=
  ((∀ (x : Int) (m s : Nat), inSampleRange x → m = min (x / 8).natAbs 4095 → s = (if 0 ≤ x then 1 else 0) →
     (m < 32 → encodeE x = BitVec.ofNat 8 (s * 128 + m / 2) ^^^ 0x55) ∧
     ∀ e, 1 ≤ e → e ≤ 7 → 2 ^ (e + 4) ≤ m → m < 2 ^ (e + 5) →
       encodeE x = BitVec.ofNat 8 (s * 128 + e * 16 + m / 2 ^ e % 16) ^^^ 0x55) ∧
   ∀ s e mantissa : Nat, s < 2 → e < 8 → mantissa < 16 →
     ∀ m, m = (if e = 0 then 2 * mantissa + 1 else (2 * mantissa + 33) * 2 ^ (e - 1)) →
       decodeE (BitVec.ofNat 8 (s * 128 + e * 16 + mantissa) ^^^ 0x55) =
         if s = 1 then (m : Int) * 8 else -(m : Int) * 8) ∧
  ((∀ (x : Int) (n s e : Nat), inSampleRange x → n = min (x / 4).natAbs 8158 + 33 → s = (if 0 ≤ x then 0 else 1) →
     2 ^ (e + 5) ≤ n → n < 2 ^ (e + 6) →
     e ≤ 7 ∧ encodeB x = ~~~(BitVec.ofNat 8 (s * 128 + e * 16 + n / 2 ^ (e + 1) % 16))) ∧
   ∀ s e mantissa : Nat, s < 2 → e < 8 → mantissa < 16 →
     ∀ m, m = (2 * mantissa + 33) * 2 ^ e - 33 →
       decodeB (~~~(BitVec.ofNat 8 (s * 128 + e * 16 + mantissa))) = if s = 1 then -(m : Int) * 4 else (m : Int) * 4)

/-- Companding again (6.2): expanding a code and companding it gives the code back, but for law B's second zero 0x7F, which no
sample compands to; so encode, decode and encode again give the first code. -/
def Obligations.CompandingIsStable : Prop :=
  (∀ (law : Law) (code : Byte), ¬(law = .b ∧ code = 0x7F) → law.compand (law.expand code) = code) ∧
  (∀ x : Int, inSampleRange x → encodeB x ≠ 0x7F) ∧
  ∀ (law : Law) (x : Int), inSampleRange x →
    law.compand (law.expand (law.compand x)) = law.compand x

/-- Gain and fade (6.1, 6.3): x · g / 4096 to the nearest integer, halves upward, then saturated, each saturation that changes
a result counted. The sample range (6.1): expansion, decoding, fade and gain leave every sample in −32768..32767. -/
def Obligations.GainRoundsAndSamplesStayInRange : Prop :=
  (∀ (g : Nat) (xs : List Int),
     (scale g xs).samples.length = xs.length ∧
     (∀ (i : Nat) (x y : Int), xs[i]? = some x → 4096 * y - 2048 ≤ x * g → x * g < 4096 * y + 2048 →
       (scale g xs).samples[i]? = some (if 32767 < y then 32767 else if y < -32768 then -32768 else y)) ∧
     (scale g xs).clips =
       xs.countP fun x => (32767 : Int) < (x * g + 2048) / 4096 || (x * g + 2048) / 4096 < (-32768 : Int)) ∧
  ((∀ (law : Law) (code : Byte), inSampleRange (law.expand code)) ∧
   (∀ (g : Nat) (xs : List Int), ∀ x ∈ (scale g xs).samples, inSampleRange x) ∧
   (∀ (table : Vector Nat 48) (prev : Int) (f : Frame), inSampleRange prev →
     (∀ x ∈ (decodeFrame table prev f).samples, inSampleRange x) ∧ inSampleRange (decodeFrame table prev f).predictor) ∧
   ∀ r : Run, ∀ x ∈ r.decode.samples, inSampleRange x)

/-- R126: the least step index whose value times 2L − 1 reaches the peak, and 47 where none does. -/
def Obligations.StepChoiceIsLeastSufficient : Prop :=
  ∀ (table : Vector Nat 48) (mode : Mode) (peak : Nat),
    (∀ i : Fin 48, peak ≤ table[i] * (2 * mode.levels - 1) →
      peak ≤ table[chooseStep table mode.levels peak] * (2 * mode.levels - 1) ∧
        chooseStep table mode.levels peak ≤ i) ∧
    ((∀ i : Fin 48, table[i] * (2 * mode.levels - 1) < peak) → chooseStep table mode.levels peak = 47)

/-- How 160 samples are encoded (6.8): each subblock of 40 takes the step index chosen for its peak (`chooseStep`, which
`StepChoiceIsLeastSufficient` says), each sample's code has the sign of the error against 15/16 of the predictor and the
lesser of floor(|e| / S) and L − 1, and the saturated reconstruction is the next predictor. The encoder's predictor is the
decoder's (6.8): decoding the frame an encoding produced, from the same predictor and the same Step Table, ends on the same
predictor, with as many clips; and the frame fits its mode. -/
def Obligations.DecoderTracksEncoder : Prop :=
  (∀ (table : Vector Nat 48) (mode : Mode) (prev : Int) (xs : List Int) (e : Encoded) (levels : Nat) (prior raw : Nat → Int),
    xs.length = 160 → e = encodeFrame table mode prev xs →
    levels = (match mode with | .two => 2 | .three => 4 | .four => 8) → prior 0 = prev →
    (∀ i, prior (i + 1) = max (-32768) (min 32767 (raw i))) →
    (∀ (i : Nat) (c : Code) (k : Fin 48), e.codes[i]? = some c → e.steps[i / 40]? = some k →
      raw i = (15 * prior i) >>> 4 + (if c.neg then -1 else 1) * (((2 * c.mag + 1) * table[k]) >>> 1 : Nat)) →
    e.steps.length = 4 ∧ e.codes.length = 160 ∧
    (∀ block peak, block < 4 → (∀ i x, i < 40 → xs[40 * block + i]? = some x → x.natAbs ≤ peak) →
      (∃ i x, i < 40 ∧ xs[40 * block + i]? = some x ∧ x.natAbs = peak) →
      e.steps[block]? = some (chooseStep table levels peak)) ∧
    (∀ (i : Nat) (x error : Int) (k : Fin 48), xs[i]? = some x → e.steps[i / 40]? = some k →
      error = x - (15 * prior i) >>> 4 →
      e.codes[i]? = some { neg := decide (error < 0), mag := min (error.natAbs / table[k]) (levels - 1) }) ∧
    e.predictor = prior 160 ∧
    e.clips = (List.range 160).countP fun i => decide (raw i < -32768) || decide (32767 < raw i)) ∧
  ∀ (table : Vector Nat 48) (mode : Mode) (prev : Int) (xs : List Int), xs.length = 160 →
    ((encodeFrame table mode prev xs).frame mode).WellFormed ∧
    (decodeFrame table prev ((encodeFrame table mode prev xs).frame mode)).predictor =
      (encodeFrame table mode prev xs).predictor ∧
    (decodeFrame table prev ((encodeFrame table mode prev xs).frame mode)).clips =
      (encodeFrame table mode prev xs).clips

/-- R129: the CRC-8, by its byte-at-a-time form: it is determined by the eight values of the single bits; a sequence followed
by its own CRC has CRC 0, and leading zeros change nothing. -/
def Obligations.CrcOfBytesAndBits : Prop :=
  crc8 [] = 0 ∧ (∀ (m : List Byte) (b : Byte), crc8 (m ++ [b]) = crc8 [crc8 m ^^^ b]) ∧
  (∀ a b : Byte, crc8 [a ^^^ b] = crc8 [a] ^^^ crc8 [b]) ∧
  crc8 [0x01] = 0x07 ∧ crc8 [0x02] = 0x0E ∧ crc8 [0x04] = 0x1C ∧ crc8 [0x08] = 0x38 ∧ crc8 [0x10] = 0x70 ∧
  crc8 [0x20] = 0xE0 ∧ crc8 [0x40] = 0xC7 ∧ crc8 [0x80] = 0x89 ∧
  (∀ m : List Byte, crc8 (m ++ [crc8 m]) = 0) ∧ ∀ m : List Byte, crc8 (0 :: m) = crc8 m

/-- The speech payload (11.2, 6.9), bit by bit in the order of sending: index i of the four is bits 6i to 6i + 5, and code j of
the 160 is the b bits from 24 + b · j, its sign, then its magnitude, most significant bit first. The part packs a well-formed
frame so into 44, 64 or 84 bytes, the last the CRC-8 of the others, and it reads every payload of a mode's length so, an
index above 47 stored as 47 (4.1, 11.2). So what the part packs it unpacks, and classifies it as the SPEECH entry of that
frame; and every unpacked frame is well formed. -/
def Obligations.SpeechPayloadRoundTrip : Prop :=
  ∀ bit : List Byte → Nat → Bool, (∀ payload k, bit payload k = (payload[k / 8]?.getD 0).getMsbD (k % 8)) →
    (∀ f : Frame, f.WellFormed →
       f.payload.length = (match f.mode with | .two => 44 | .three => 64 | .four => 84) ∧
       f.payload.getLast? = some (crc8 f.payload.dropLast) ∧
       (∀ (i : Nat) (step : Fin 48), f.steps[i]? = some step →
         ∀ k, k < 6 → bit f.payload (6 * i + k) = step.val.testBit (5 - k)) ∧
       (∀ (j : Nat) (c : Code), f.codes[j]? = some c →
         bit f.payload (24 + f.mode.width * j) = c.neg ∧
         ∀ k, 1 ≤ k → k < f.mode.width →
           bit f.payload (24 + f.mode.width * j + k) = c.mag.testBit (f.mode.width - 1 - k)) ∧
       unpackFrame f.mode f.payload = f ∧
       ∀ h : Header, h.mode.toNat = f.mode.width → classify .speech h f.payload = .speech f) ∧
    ∀ (mode : Mode) (payload : List Byte),
      (unpackFrame mode payload).WellFormed ∧ (unpackFrame mode payload).mode = mode ∧
      (payload.length = (match mode with | .two => 44 | .three => 64 | .four => 84) →
        (∀ i value, i < 4 →
          value = ((List.range 6).map fun k => if bit payload (6 * i + k) then 2 ^ (5 - k) else 0).sum →
          (unpackFrame mode payload).steps[i]?.map Fin.val = some (min value 47)) ∧
        ∀ j magnitude, j < 160 →
          magnitude =
            ((List.range (mode.width - 1)).map fun k =>
              if bit payload (24 + mode.width * j + 1 + k) then 2 ^ (mode.width - 2 - k) else 0).sum →
          (unpackFrame mode payload).codes[j]? =
            some { neg := bit payload (24 + mode.width * j), mag := magnitude })

/-! ## Invariants -/

/-- Every step keeps the laws of the contexts: FREE in STANDBY, bound exactly while in use, no timeslot shared, no phase of
more than 8, modes within their sets (8.4, 1.2, 1.7). -/
def Obligations.StepKeepsContextLaws : Prop :=
  (∀ s t : State, StandbyLaw s → step s = .next t → StandbyLaw t) ∧
  (∀ s t : State, BindingLaw s → step s = .next t → BindingLaw t) ∧
  ∀ s t : State, ModeLaw s → step s = .next t → ModeLaw t

/-- Every step keeps the limits of the queues, and a port that is free and READY has nothing waiting (3.4 to 3.6, 5.5). Every
step keeps every playout queue in order, within its window, and empty while unanchored (4.1). -/
def Obligations.StepKeepsQueueAndPlayoutLaws : Prop :=
  ((∀ s t : State, QueueLaw s → step s = .next t → QueueLaw t) ∧
   ∀ s t : State, IdlePortLaw s → step s = .next t → IdlePortLaw t) ∧
  (∀ s t : State, PlayoutLaw s → step s = .next t → PlayoutLaw t)

/-- Every step keeps every table value legal and the cursor within its table (3.3, 6.3, 6.4, 8.2, 9.4). Every step keeps the
frame counter in 0..159 and owes boundaries only where they fall (2.3; the marks are the model's, log 3), and keeps the
health-change list a set in order (10.1). -/
def Obligations.StepKeepsTableAndTimingLaws : Prop :=
  (∀ s t : State, TableLaw s → step s = .next t → TableLaw t) ∧
  ((∀ s t : State, TimingLaw s → step s = .next t → TimingLaw t) ∧
   ∀ s t : State, HealthListLaw s → step s = .next t → HealthListLaw t)

/-- Every step keeps at most one live job per context and kind, each of its context's present call (5.5, 5.6); and with it
every frame, buffer and trace whole (4.1, 2.5, 10.5). Every step keeps every predictor a 16-bit sample (6.1) and every counter
at its limit (2.2, 3.7, 4.5, 5.6). -/
def Obligations.StepKeepsJobSpeechAndCounterLaws : Prop :=
  ((∀ s t : State, JobLaw s → step s = .next t → JobLaw t) ∧
   ∀ s t : State, JobLaw s → SpeechDataLaw s → step s = .next t → SpeechDataLaw t) ∧
  ((∀ s t : State, PredictorLaw s → step s = .next t → PredictorLaw t) ∧
   ∀ s t : State, CounterLaw s → step s = .next t → CounterLaw t)

/-- Every law holds right after reset. -/
def Obligations.LawsHoldAtReset : Prop :=
  StandbyLaw State.reset ∧ BindingLaw State.reset ∧ ModeLaw State.reset ∧ QueueLaw State.reset ∧
    IdlePortLaw State.reset ∧ PlayoutLaw State.reset ∧ TableLaw State.reset ∧ JobLaw State.reset ∧
    SpeechDataLaw State.reset ∧ PredictorLaw State.reset ∧ CounterLaw State.reset ∧ TimingLaw State.reset ∧
    HealthListLaw State.reset
end

