-- ==== Sys2Proof/Laws/State.lean ====
section
/-! SUPPORT. What the plain updates of the state leave alone: one lemma per field per update, and reading a context after
writing one. -/

namespace Sys2Proof.Machine

/-! ## Contexts -/

theorem State.channel_congr {s t : State} (h : s.channels = t.channels) (n : Nat) : s.channel n = t.channel n := by
  simp [State.channel, h]

theorem State.channel_setChannel (s : State) (n m : Nat) (c : Channel) :
    (s.setChannel n c).channel m = if m = n ∧ n < 192 then c else s.channel m := by
  unfold State.channel State.setChannel
  by_cases h : n = m
  · subst h
    by_cases hn : n < 192
    · simp [hn]
    · simp [hn]
  · have h' : ¬(m = n) := fun e => h e.symm
    simp [h', Vector.getElem?_setIfInBounds_ne h]

@[simp] theorem State.channel_setChannel_self (s : State) (n : Nat) (c : Channel) (h : n < 192) :
    (s.setChannel n c).channel n = c := by
  simp [State.channel_setChannel, h]

@[simp] theorem State.channel_setChannel_ne (s : State) (n m : Nat) (c : Channel) (h : m ≠ n) :
    (s.setChannel n c).channel m = s.channel m := by
  simp [State.channel_setChannel, h]

theorem State.channel_updateChannel (s : State) (n m : Nat) (f : Channel → Channel) :
    (s.updateChannel n f).channel m = if m = n ∧ n < 192 then f (s.channel n) else s.channel m :=
  State.channel_setChannel s n m _

@[simp] theorem State.channel_updateChannel_self (s : State) (n : Nat) (f : Channel → Channel) (h : n < 192) :
    (s.updateChannel n f).channel n = f (s.channel n) := by
  simp [State.channel_updateChannel, h]

@[simp] theorem State.channel_updateChannel_ne (s : State) (n m : Nat) (f : Channel → Channel) (h : m ≠ n) :
    (s.updateChannel n f).channel m = s.channel m := by
  simp [State.channel_updateChannel, h]

/-- A number above 191 names no context. -/
theorem State.channel_out (s : State) (n : Nat) (h : 192 ≤ n) : s.channel n = Channel.atReset := by
  simp [State.channel, h]

theorem State.channel_eq_get (s : State) (n : Nat) (h : n < 192) : s.channel n = s.channels[n] := by
  simp [State.channel, h]

@[simp] theorem mapVector_get {α β : Type} {n : Nat} (f : α → β) (v : Vector α n) (i : Nat) (h : i < n) :
    (mapVector f v)[i] = f v[i] := by
  simp [mapVector]

theorem State.channel_mapVector (s : State) (f : Channel → Channel) (n : Nat) (h : n < 192) :
    ({ s with channels := mapVector f s.channels } : State).channel n = f (s.channel n) := by
  simp [State.channel, h]

/-- A property of every element of a vector, by index. -/
theorem all_toList_iff {α : Type} {n : Nat} (v : Vector α n) (p : α → Bool) :
    v.toArray.toList.all p = true ↔ ∀ i (h : i < n), p v[i] = true := by
  rw [List.all_eq_true]
  constructor
  · intro hp i hi
    exact hp _ (by simp)
  · intro hp x hx
    obtain ⟨i, hi, rfl⟩ := List.getElem_of_mem hx
    have : i < n := by simpa using hi
    simpa using hp i this

theorem State.allFree_iff (s : State) : s.allFree = true ↔ ∀ n, (s.channel n).state = .free := by
  unfold State.allFree
  rw [all_toList_iff]
  constructor
  · intro h n
    by_cases hn : n < 192
    · rw [s.channel_eq_get n hn]
      simpa using h n hn
    · rw [s.channel_out n (by omega)]; rfl
  · intro h i hi
    rw [← s.channel_eq_get i hi]
    simp [h i]

/-! ## Fields the plain updates leave alone -/

@[simp] theorem State.setChannel_management (s : State) (n : Nat) (c : Channel) : (s.setChannel n c).management = s.management := rfl
@[simp] theorem State.setChannel_highway (s : State) (n : Nat) (c : Channel) : (s.setChannel n c).highway = s.highway := rfl
@[simp] theorem State.setChannel_links (s : State) (n : Nat) (c : Channel) : (s.setChannel n c).links = s.links := rfl
@[simp] theorem State.setChannel_tables (s : State) (n : Nat) (c : Channel) : (s.setChannel n c).tables = s.tables := rfl
@[simp] theorem State.setChannel_stagingHold (s : State) (n : Nat) (c : Channel) : (s.setChannel n c).stagingHold = s.stagingHold := rfl
@[simp] theorem State.setChannel_engine (s : State) (n : Nat) (c : Channel) : (s.setChannel n c).engine = s.engine := rfl
@[simp] theorem State.setChannel_status (s : State) (n : Nat) (c : Channel) : (s.setChannel n c).status = s.status := rfl
@[simp] theorem State.setChannel_trace (s : State) (n : Nat) (c : Channel) : (s.setChannel n c).trace = s.trace := rfl
@[simp] theorem State.setChannel_pending (s : State) (n : Nat) (c : Channel) : (s.setChannel n c).pending = s.pending := rfl
@[simp] theorem State.updateChannel_management (s : State) (n : Nat) (f : Channel → Channel) : (s.updateChannel n f).management = s.management := rfl
@[simp] theorem State.updateChannel_highway (s : State) (n : Nat) (f : Channel → Channel) : (s.updateChannel n f).highway = s.highway := rfl
@[simp] theorem State.updateChannel_links (s : State) (n : Nat) (f : Channel → Channel) : (s.updateChannel n f).links = s.links := rfl
@[simp] theorem State.updateChannel_tables (s : State) (n : Nat) (f : Channel → Channel) : (s.updateChannel n f).tables = s.tables := rfl
@[simp] theorem State.updateChannel_stagingHold (s : State) (n : Nat) (f : Channel → Channel) : (s.updateChannel n f).stagingHold = s.stagingHold := rfl
@[simp] theorem State.updateChannel_engine (s : State) (n : Nat) (f : Channel → Channel) : (s.updateChannel n f).engine = s.engine := rfl
@[simp] theorem State.updateChannel_status (s : State) (n : Nat) (f : Channel → Channel) : (s.updateChannel n f).status = s.status := rfl
@[simp] theorem State.updateChannel_trace (s : State) (n : Nat) (f : Channel → Channel) : (s.updateChannel n f).trace = s.trace := rfl
@[simp] theorem State.updateChannel_pending (s : State) (n : Nat) (f : Channel → Channel) : (s.updateChannel n f).pending = s.pending := rfl
@[simp] theorem State.raise_management (s : State) (f : Flag) : (s.raise f).management = s.management := rfl
@[simp] theorem State.raise_highway (s : State) (f : Flag) : (s.raise f).highway = s.highway := rfl
@[simp] theorem State.raise_links (s : State) (f : Flag) : (s.raise f).links = s.links := rfl
@[simp] theorem State.raise_tables (s : State) (f : Flag) : (s.raise f).tables = s.tables := rfl
@[simp] theorem State.raise_stagingHold (s : State) (f : Flag) : (s.raise f).stagingHold = s.stagingHold := rfl
@[simp] theorem State.raise_channels (s : State) (f : Flag) : (s.raise f).channels = s.channels := rfl
@[simp] theorem State.raise_engine (s : State) (f : Flag) : (s.raise f).engine = s.engine := rfl
@[simp] theorem State.raise_trace (s : State) (f : Flag) : (s.raise f).trace = s.trace := rfl
@[simp] theorem State.raise_pending (s : State) (f : Flag) : (s.raise f).pending = s.pending := rfl
@[simp] theorem State.raise_channel (s : State) (f : Flag) (m : Nat) : (s.raise f).channel m = s.channel m :=
  State.channel_congr (State.raise_channels s f) m
@[simp] theorem State.count_management (s : State) (f : DeviceCounters → DeviceCounters) : (s.count f).management = s.management := rfl
@[simp] theorem State.count_highway (s : State) (f : DeviceCounters → DeviceCounters) : (s.count f).highway = s.highway := rfl
@[simp] theorem State.count_links (s : State) (f : DeviceCounters → DeviceCounters) : (s.count f).links = s.links := rfl
@[simp] theorem State.count_tables (s : State) (f : DeviceCounters → DeviceCounters) : (s.count f).tables = s.tables := rfl
@[simp] theorem State.count_stagingHold (s : State) (f : DeviceCounters → DeviceCounters) : (s.count f).stagingHold = s.stagingHold := rfl
@[simp] theorem State.count_channels (s : State) (f : DeviceCounters → DeviceCounters) : (s.count f).channels = s.channels := rfl
@[simp] theorem State.count_engine (s : State) (f : DeviceCounters → DeviceCounters) : (s.count f).engine = s.engine := rfl
@[simp] theorem State.count_trace (s : State) (f : DeviceCounters → DeviceCounters) : (s.count f).trace = s.trace := rfl
@[simp] theorem State.count_pending (s : State) (f : DeviceCounters → DeviceCounters) : (s.count f).pending = s.pending := rfl
@[simp] theorem State.count_channel (s : State) (f : DeviceCounters → DeviceCounters) (m : Nat) : (s.count f).channel m = s.channel m :=
  State.channel_congr (State.count_channels s f) m
@[simp] theorem State.withDevice_highway (s : State) (d : DeviceState) : (s.withDevice d).highway = s.highway := rfl
@[simp] theorem State.withDevice_links (s : State) (d : DeviceState) : (s.withDevice d).links = s.links := rfl
@[simp] theorem State.withDevice_tables (s : State) (d : DeviceState) : (s.withDevice d).tables = s.tables := rfl
@[simp] theorem State.withDevice_stagingHold (s : State) (d : DeviceState) : (s.withDevice d).stagingHold = s.stagingHold := rfl
@[simp] theorem State.withDevice_channels (s : State) (d : DeviceState) : (s.withDevice d).channels = s.channels := rfl
@[simp] theorem State.withDevice_engine (s : State) (d : DeviceState) : (s.withDevice d).engine = s.engine := rfl
@[simp] theorem State.withDevice_status (s : State) (d : DeviceState) : (s.withDevice d).status = s.status := rfl
@[simp] theorem State.withDevice_trace (s : State) (d : DeviceState) : (s.withDevice d).trace = s.trace := rfl
@[simp] theorem State.withDevice_pending (s : State) (d : DeviceState) : (s.withDevice d).pending = s.pending := rfl
@[simp] theorem State.withDevice_channel (s : State) (d : DeviceState) (m : Nat) : (s.withDevice d).channel m = s.channel m :=
  State.channel_congr (State.withDevice_channels s d) m
@[simp] theorem State.withCursor_highway (s : State) (id : TableId) (i : Nat) : (s.withCursor id i).highway = s.highway := rfl
@[simp] theorem State.withCursor_links (s : State) (id : TableId) (i : Nat) : (s.withCursor id i).links = s.links := rfl
@[simp] theorem State.withCursor_tables (s : State) (id : TableId) (i : Nat) : (s.withCursor id i).tables = s.tables := rfl
@[simp] theorem State.withCursor_stagingHold (s : State) (id : TableId) (i : Nat) : (s.withCursor id i).stagingHold = s.stagingHold := rfl
@[simp] theorem State.withCursor_channels (s : State) (id : TableId) (i : Nat) : (s.withCursor id i).channels = s.channels := rfl
@[simp] theorem State.withCursor_engine (s : State) (id : TableId) (i : Nat) : (s.withCursor id i).engine = s.engine := rfl
@[simp] theorem State.withCursor_status (s : State) (id : TableId) (i : Nat) : (s.withCursor id i).status = s.status := rfl
@[simp] theorem State.withCursor_trace (s : State) (id : TableId) (i : Nat) : (s.withCursor id i).trace = s.trace := rfl
@[simp] theorem State.withCursor_pending (s : State) (id : TableId) (i : Nat) : (s.withCursor id i).pending = s.pending := rfl
@[simp] theorem State.withCursor_channel (s : State) (id : TableId) (i : Nat) (m : Nat) : (s.withCursor id i).channel m = s.channel m :=
  State.channel_congr (State.withCursor_channels s id i) m
@[simp] theorem State.enterOriginated_management (s : State) (kind : UnitKind) (bytes : List Byte) (restarts : Bool) : (s.enterOriginated kind bytes restarts).management = s.management := rfl
@[simp] theorem State.enterOriginated_highway (s : State) (kind : UnitKind) (bytes : List Byte) (restarts : Bool) : (s.enterOriginated kind bytes restarts).highway = s.highway := rfl
@[simp] theorem State.enterOriginated_tables (s : State) (kind : UnitKind) (bytes : List Byte) (restarts : Bool) : (s.enterOriginated kind bytes restarts).tables = s.tables := rfl
@[simp] theorem State.enterOriginated_stagingHold (s : State) (kind : UnitKind) (bytes : List Byte) (restarts : Bool) : (s.enterOriginated kind bytes restarts).stagingHold = s.stagingHold := rfl
@[simp] theorem State.enterOriginated_channels (s : State) (kind : UnitKind) (bytes : List Byte) (restarts : Bool) : (s.enterOriginated kind bytes restarts).channels = s.channels := rfl
@[simp] theorem State.enterOriginated_engine (s : State) (kind : UnitKind) (bytes : List Byte) (restarts : Bool) : (s.enterOriginated kind bytes restarts).engine = s.engine := rfl
@[simp] theorem State.enterOriginated_status (s : State) (kind : UnitKind) (bytes : List Byte) (restarts : Bool) : (s.enterOriginated kind bytes restarts).status = s.status := rfl
@[simp] theorem State.enterOriginated_trace (s : State) (kind : UnitKind) (bytes : List Byte) (restarts : Bool) : (s.enterOriginated kind bytes restarts).trace = s.trace := rfl
@[simp] theorem State.enterOriginated_pending (s : State) (kind : UnitKind) (bytes : List Byte) (restarts : Bool) : (s.enterOriginated kind bytes restarts).pending = s.pending := rfl
@[simp] theorem State.enterOriginated_channel (s : State) (kind : UnitKind) (bytes : List Byte) (restarts : Bool) (m : Nat) : (s.enterOriginated kind bytes restarts).channel m = s.channel m :=
  State.channel_congr (State.enterOriginated_channels s kind bytes restarts) m
@[simp] theorem State.endReception_management (s : State) (port : Port) : (s.endReception port).management = s.management := by cases port <;> rfl
@[simp] theorem State.endReception_highway (s : State) (port : Port) : (s.endReception port).highway = s.highway := by cases port <;> rfl
@[simp] theorem State.endReception_tables (s : State) (port : Port) : (s.endReception port).tables = s.tables := by cases port <;> rfl
@[simp] theorem State.endReception_stagingHold (s : State) (port : Port) : (s.endReception port).stagingHold = s.stagingHold := by cases port <;> rfl
@[simp] theorem State.endReception_channels (s : State) (port : Port) : (s.endReception port).channels = s.channels := by cases port <;> rfl
@[simp] theorem State.endReception_engine (s : State) (port : Port) : (s.endReception port).engine = s.engine := by cases port <;> rfl
@[simp] theorem State.endReception_status (s : State) (port : Port) : (s.endReception port).status = s.status := by cases port <;> rfl
@[simp] theorem State.endReception_trace (s : State) (port : Port) : (s.endReception port).trace = s.trace := by cases port <;> rfl
@[simp] theorem State.endReception_pending (s : State) (port : Port) : (s.endReception port).pending = s.pending := by cases port <;> rfl
@[simp] theorem State.endReception_channel (s : State) (port : Port) (m : Nat) : (s.endReception port).channel m = s.channel m :=
  State.channel_congr (State.endReception_channels s port) m
@[simp] theorem State.withHold_management (s : State) (port : Port) (level : Bool) : (s.withHold port level).management = s.management := by cases port <;> rfl
@[simp] theorem State.withHold_highway (s : State) (port : Port) (level : Bool) : (s.withHold port level).highway = s.highway := by cases port <;> rfl
@[simp] theorem State.withHold_tables (s : State) (port : Port) (level : Bool) : (s.withHold port level).tables = s.tables := by cases port <;> rfl
@[simp] theorem State.withHold_stagingHold (s : State) (port : Port) (level : Bool) : (s.withHold port level).stagingHold = s.stagingHold := by cases port <;> rfl
@[simp] theorem State.withHold_channels (s : State) (port : Port) (level : Bool) : (s.withHold port level).channels = s.channels := by cases port <;> rfl
@[simp] theorem State.withHold_engine (s : State) (port : Port) (level : Bool) : (s.withHold port level).engine = s.engine := by cases port <;> rfl
@[simp] theorem State.withHold_status (s : State) (port : Port) (level : Bool) : (s.withHold port level).status = s.status := by cases port <;> rfl
@[simp] theorem State.withHold_trace (s : State) (port : Port) (level : Bool) : (s.withHold port level).trace = s.trace := by cases port <;> rfl
@[simp] theorem State.withHold_pending (s : State) (port : Port) (level : Bool) : (s.withHold port level).pending = s.pending := by cases port <;> rfl
@[simp] theorem State.withHold_channel (s : State) (port : Port) (level : Bool) (m : Nat) : (s.withHold port level).channel m = s.channel m :=
  State.channel_congr (State.withHold_channels s port level) m

end Sys2Proof.Machine
end

