-- ==== Sys2Proof/Laws/Frames.lean ====
section
/-! SUPPORT. What each shared operation leaves alone: one lemma per field it never touches. -/

namespace Sys2Proof.Machine


/-! ## Status and counters -/

@[simp] theorem State.countEngineLate_management (s : State) (n : Nat) (k : Nat) : (s.countEngineLate n k).management = s.management := by
  unfold State.countEngineLate; split <;> rfl
@[simp] theorem State.countEngineLate_highway (s : State) (n : Nat) (k : Nat) : (s.countEngineLate n k).highway = s.highway := by
  unfold State.countEngineLate; split <;> rfl
@[simp] theorem State.countEngineLate_links (s : State) (n : Nat) (k : Nat) : (s.countEngineLate n k).links = s.links := by
  unfold State.countEngineLate; split <;> rfl
@[simp] theorem State.countEngineLate_tables (s : State) (n : Nat) (k : Nat) : (s.countEngineLate n k).tables = s.tables := by
  unfold State.countEngineLate; split <;> rfl
@[simp] theorem State.countEngineLate_stagingHold (s : State) (n : Nat) (k : Nat) : (s.countEngineLate n k).stagingHold = s.stagingHold := by
  unfold State.countEngineLate; split <;> rfl
@[simp] theorem State.countEngineLate_engine (s : State) (n : Nat) (k : Nat) : (s.countEngineLate n k).engine = s.engine := by
  unfold State.countEngineLate; split <;> rfl
@[simp] theorem State.countEngineLate_trace (s : State) (n : Nat) (k : Nat) : (s.countEngineLate n k).trace = s.trace := by
  unfold State.countEngineLate; split <;> rfl
@[simp] theorem State.countEngineLate_pending (s : State) (n : Nat) (k : Nat) : (s.countEngineLate n k).pending = s.pending := by
  unfold State.countEngineLate; split <;> rfl


/-! ## Egress (3.4 to 3.6) -/

@[simp] theorem State.selectOriginated_management (s : State) : (s.selectOriginated).management = s.management := rfl
@[simp] theorem State.selectOriginated_highway (s : State) : (s.selectOriginated).highway = s.highway := rfl
@[simp] theorem State.selectOriginated_tables (s : State) : (s.selectOriginated).tables = s.tables := rfl
@[simp] theorem State.selectOriginated_stagingHold (s : State) : (s.selectOriginated).stagingHold = s.stagingHold := rfl
@[simp] theorem State.selectOriginated_channels (s : State) : (s.selectOriginated).channels = s.channels := rfl
@[simp] theorem State.selectOriginated_engine (s : State) : (s.selectOriginated).engine = s.engine := rfl
@[simp] theorem State.selectOriginated_trace (s : State) : (s.selectOriginated).trace = s.trace := rfl
@[simp] theorem State.selectOriginated_pending (s : State) : (s.selectOriginated).pending = s.pending := rfl
@[simp] theorem State.selectOriginated_channel (s : State) (m : Nat) : (s.selectOriginated).channel m = s.channel m :=
  State.channel_congr (State.selectOriginated_channels s) m

@[simp] theorem State.selectA_management (s : State) : (s.selectA).management = s.management := by
  unfold State.selectA; split <;> [split; skip] <;> rfl
@[simp] theorem State.selectA_highway (s : State) : (s.selectA).highway = s.highway := by
  unfold State.selectA; split <;> [split; skip] <;> rfl
@[simp] theorem State.selectA_tables (s : State) : (s.selectA).tables = s.tables := by
  unfold State.selectA; split <;> [split; skip] <;> rfl
@[simp] theorem State.selectA_stagingHold (s : State) : (s.selectA).stagingHold = s.stagingHold := by
  unfold State.selectA; split <;> [split; skip] <;> rfl
@[simp] theorem State.selectA_channels (s : State) : (s.selectA).channels = s.channels := by
  unfold State.selectA; split <;> [split; skip] <;> rfl
@[simp] theorem State.selectA_engine (s : State) : (s.selectA).engine = s.engine := by
  unfold State.selectA; split <;> [split; skip] <;> rfl
@[simp] theorem State.selectA_trace (s : State) : (s.selectA).trace = s.trace := by
  unfold State.selectA; split <;> [split; skip] <;> rfl
@[simp] theorem State.selectA_pending (s : State) : (s.selectA).pending = s.pending := by
  unfold State.selectA; split <;> [split; skip] <;> rfl
@[simp] theorem State.selectA_channel (s : State) (m : Nat) : (s.selectA).channel m = s.channel m :=
  State.channel_congr (State.selectA_channels s) m

@[simp] theorem State.selectB_management (s : State) : (s.selectB).management = s.management := by
  unfold State.selectB; split <;> rfl
@[simp] theorem State.selectB_highway (s : State) : (s.selectB).highway = s.highway := by
  unfold State.selectB; split <;> rfl
@[simp] theorem State.selectB_tables (s : State) : (s.selectB).tables = s.tables := by
  unfold State.selectB; split <;> rfl
@[simp] theorem State.selectB_stagingHold (s : State) : (s.selectB).stagingHold = s.stagingHold := by
  unfold State.selectB; split <;> rfl
@[simp] theorem State.selectB_channels (s : State) : (s.selectB).channels = s.channels := by
  unfold State.selectB; split <;> rfl
@[simp] theorem State.selectB_engine (s : State) : (s.selectB).engine = s.engine := by
  unfold State.selectB; split <;> rfl
@[simp] theorem State.selectB_status (s : State) : (s.selectB).status = s.status := by
  unfold State.selectB; split <;> rfl
@[simp] theorem State.selectB_trace (s : State) : (s.selectB).trace = s.trace := by
  unfold State.selectB; split <;> rfl
@[simp] theorem State.selectB_pending (s : State) : (s.selectB).pending = s.pending := by
  unfold State.selectB; split <;> rfl
@[simp] theorem State.selectB_channel (s : State) (m : Nat) : (s.selectB).channel m = s.channel m :=
  State.channel_congr (State.selectB_channels s) m

@[simp] theorem State.select_management (s : State) (port : Port) : (s.select port).management = s.management := by cases port <;> simp [State.select]
@[simp] theorem State.select_highway (s : State) (port : Port) : (s.select port).highway = s.highway := by cases port <;> simp [State.select]
@[simp] theorem State.select_tables (s : State) (port : Port) : (s.select port).tables = s.tables := by cases port <;> simp [State.select]
@[simp] theorem State.select_stagingHold (s : State) (port : Port) : (s.select port).stagingHold = s.stagingHold := by cases port <;> simp [State.select]
@[simp] theorem State.select_channels (s : State) (port : Port) : (s.select port).channels = s.channels := by cases port <;> simp [State.select]
@[simp] theorem State.select_engine (s : State) (port : Port) : (s.select port).engine = s.engine := by cases port <;> simp [State.select]
@[simp] theorem State.select_trace (s : State) (port : Port) : (s.select port).trace = s.trace := by cases port <;> simp [State.select]
@[simp] theorem State.select_pending (s : State) (port : Port) : (s.select port).pending = s.pending := by cases port <;> simp [State.select]
@[simp] theorem State.select_channel (s : State) (port : Port) (m : Nat) : (s.select port).channel m = s.channel m :=
  State.channel_congr (State.select_channels s port) m

@[simp] theorem State.offerAToB_management (s : State) (bytes : List Byte) : (s.offerAToB bytes).management = s.management := by
  unfold State.offerAToB; split <;> simp
@[simp] theorem State.offerAToB_highway (s : State) (bytes : List Byte) : (s.offerAToB bytes).highway = s.highway := by
  unfold State.offerAToB; split <;> simp
@[simp] theorem State.offerAToB_tables (s : State) (bytes : List Byte) : (s.offerAToB bytes).tables = s.tables := by
  unfold State.offerAToB; split <;> simp
@[simp] theorem State.offerAToB_stagingHold (s : State) (bytes : List Byte) : (s.offerAToB bytes).stagingHold = s.stagingHold := by
  unfold State.offerAToB; split <;> simp
@[simp] theorem State.offerAToB_channels (s : State) (bytes : List Byte) : (s.offerAToB bytes).channels = s.channels := by
  unfold State.offerAToB; split <;> simp
@[simp] theorem State.offerAToB_engine (s : State) (bytes : List Byte) : (s.offerAToB bytes).engine = s.engine := by
  unfold State.offerAToB; split <;> simp
@[simp] theorem State.offerAToB_trace (s : State) (bytes : List Byte) : (s.offerAToB bytes).trace = s.trace := by
  unfold State.offerAToB; split <;> simp
@[simp] theorem State.offerAToB_pending (s : State) (bytes : List Byte) : (s.offerAToB bytes).pending = s.pending := by
  unfold State.offerAToB; split <;> simp
@[simp] theorem State.offerAToB_channel (s : State) (bytes : List Byte) (m : Nat) : (s.offerAToB bytes).channel m = s.channel m :=
  State.channel_congr (State.offerAToB_channels s bytes) m

@[simp] theorem State.offerBToA_management (s : State) (bytes : List Byte) : (s.offerBToA bytes).management = s.management := by
  unfold State.offerBToA; split <;> simp
@[simp] theorem State.offerBToA_highway (s : State) (bytes : List Byte) : (s.offerBToA bytes).highway = s.highway := by
  unfold State.offerBToA; split <;> simp
@[simp] theorem State.offerBToA_tables (s : State) (bytes : List Byte) : (s.offerBToA bytes).tables = s.tables := by
  unfold State.offerBToA; split <;> simp
@[simp] theorem State.offerBToA_stagingHold (s : State) (bytes : List Byte) : (s.offerBToA bytes).stagingHold = s.stagingHold := by
  unfold State.offerBToA; split <;> simp
@[simp] theorem State.offerBToA_channels (s : State) (bytes : List Byte) : (s.offerBToA bytes).channels = s.channels := by
  unfold State.offerBToA; split <;> simp
@[simp] theorem State.offerBToA_engine (s : State) (bytes : List Byte) : (s.offerBToA bytes).engine = s.engine := by
  unfold State.offerBToA; split <;> simp
@[simp] theorem State.offerBToA_trace (s : State) (bytes : List Byte) : (s.offerBToA bytes).trace = s.trace := by
  unfold State.offerBToA; split <;> simp
@[simp] theorem State.offerBToA_pending (s : State) (bytes : List Byte) : (s.offerBToA bytes).pending = s.pending := by
  unfold State.offerBToA; split <;> simp
@[simp] theorem State.offerBToA_channel (s : State) (bytes : List Byte) (m : Nat) : (s.offerBToA bytes).channel m = s.channel m :=
  State.channel_congr (State.offerBToA_channels s bytes) m

@[simp] theorem State.offerSpeech_management (s : State) (kind : UnitKind) (bytes : List Byte) : (s.offerSpeech kind bytes).management = s.management := by
  unfold State.offerSpeech; split <;> simp
@[simp] theorem State.offerSpeech_highway (s : State) (kind : UnitKind) (bytes : List Byte) : (s.offerSpeech kind bytes).highway = s.highway := by
  unfold State.offerSpeech; split <;> simp
@[simp] theorem State.offerSpeech_tables (s : State) (kind : UnitKind) (bytes : List Byte) : (s.offerSpeech kind bytes).tables = s.tables := by
  unfold State.offerSpeech; split <;> simp
@[simp] theorem State.offerSpeech_stagingHold (s : State) (kind : UnitKind) (bytes : List Byte) : (s.offerSpeech kind bytes).stagingHold = s.stagingHold := by
  unfold State.offerSpeech; split <;> simp
@[simp] theorem State.offerSpeech_channels (s : State) (kind : UnitKind) (bytes : List Byte) : (s.offerSpeech kind bytes).channels = s.channels := by
  unfold State.offerSpeech; split <;> simp
@[simp] theorem State.offerSpeech_engine (s : State) (kind : UnitKind) (bytes : List Byte) : (s.offerSpeech kind bytes).engine = s.engine := by
  unfold State.offerSpeech; split <;> simp
@[simp] theorem State.offerSpeech_trace (s : State) (kind : UnitKind) (bytes : List Byte) : (s.offerSpeech kind bytes).trace = s.trace := by
  unfold State.offerSpeech; split <;> simp
@[simp] theorem State.offerSpeech_pending (s : State) (kind : UnitKind) (bytes : List Byte) : (s.offerSpeech kind bytes).pending = s.pending := by
  unfold State.offerSpeech; split <;> simp
@[simp] theorem State.offerSpeech_channel (s : State) (kind : UnitKind) (bytes : List Byte) (m : Nat) : (s.offerSpeech kind bytes).channel m = s.channel m :=
  State.channel_congr (State.offerSpeech_channels s kind bytes) m

@[simp] theorem State.offerResponse_management (s : State) (bytes : List Byte) (restarts : Bool) : (s.offerResponse bytes restarts).management = s.management := by
  unfold State.offerResponse; split <;> simp
@[simp] theorem State.offerResponse_highway (s : State) (bytes : List Byte) (restarts : Bool) : (s.offerResponse bytes restarts).highway = s.highway := by
  unfold State.offerResponse; split <;> simp
@[simp] theorem State.offerResponse_tables (s : State) (bytes : List Byte) (restarts : Bool) : (s.offerResponse bytes restarts).tables = s.tables := by
  unfold State.offerResponse; split <;> simp
@[simp] theorem State.offerResponse_stagingHold (s : State) (bytes : List Byte) (restarts : Bool) : (s.offerResponse bytes restarts).stagingHold = s.stagingHold := by
  unfold State.offerResponse; split <;> simp
@[simp] theorem State.offerResponse_channels (s : State) (bytes : List Byte) (restarts : Bool) : (s.offerResponse bytes restarts).channels = s.channels := by
  unfold State.offerResponse; split <;> simp
@[simp] theorem State.offerResponse_engine (s : State) (bytes : List Byte) (restarts : Bool) : (s.offerResponse bytes restarts).engine = s.engine := by
  unfold State.offerResponse; split <;> simp
@[simp] theorem State.offerResponse_trace (s : State) (bytes : List Byte) (restarts : Bool) : (s.offerResponse bytes restarts).trace = s.trace := by
  unfold State.offerResponse; split <;> simp
@[simp] theorem State.offerResponse_pending (s : State) (bytes : List Byte) (restarts : Bool) : (s.offerResponse bytes restarts).pending = s.pending := by
  unfold State.offerResponse; split <;> simp
@[simp] theorem State.offerResponse_channel (s : State) (bytes : List Byte) (restarts : Bool) (m : Nat) : (s.offerResponse bytes restarts).channel m = s.channel m :=
  State.channel_congr (State.offerResponse_channels s bytes restarts) m

@[simp] theorem State.offerNotice_management (s : State) (bytes : List Byte) : (s.offerNotice bytes).management = s.management := by
  unfold State.offerNotice; split <;> simp
@[simp] theorem State.offerNotice_highway (s : State) (bytes : List Byte) : (s.offerNotice bytes).highway = s.highway := by
  unfold State.offerNotice; split <;> simp
@[simp] theorem State.offerNotice_tables (s : State) (bytes : List Byte) : (s.offerNotice bytes).tables = s.tables := by
  unfold State.offerNotice; split <;> simp
@[simp] theorem State.offerNotice_stagingHold (s : State) (bytes : List Byte) : (s.offerNotice bytes).stagingHold = s.stagingHold := by
  unfold State.offerNotice; split <;> simp
@[simp] theorem State.offerNotice_channels (s : State) (bytes : List Byte) : (s.offerNotice bytes).channels = s.channels := by
  unfold State.offerNotice; split <;> simp
@[simp] theorem State.offerNotice_engine (s : State) (bytes : List Byte) : (s.offerNotice bytes).engine = s.engine := by
  unfold State.offerNotice; split <;> simp
@[simp] theorem State.offerNotice_trace (s : State) (bytes : List Byte) : (s.offerNotice bytes).trace = s.trace := by
  unfold State.offerNotice; split <;> simp
@[simp] theorem State.offerNotice_pending (s : State) (bytes : List Byte) : (s.offerNotice bytes).pending = s.pending := by
  unfold State.offerNotice; split <;> simp
@[simp] theorem State.offerNotice_channel (s : State) (bytes : List Byte) (m : Nat) : (s.offerNotice bytes).channel m = s.channel m :=
  State.channel_congr (State.offerNotice_channels s bytes) m

@[simp] theorem State.offerUnit_management (s : State) (u : Option (UnitKind × List Byte)) : (s.offerUnit u).management = s.management := by
  cases u <;> simp [State.offerUnit]
@[simp] theorem State.offerUnit_highway (s : State) (u : Option (UnitKind × List Byte)) : (s.offerUnit u).highway = s.highway := by
  cases u <;> simp [State.offerUnit]
@[simp] theorem State.offerUnit_tables (s : State) (u : Option (UnitKind × List Byte)) : (s.offerUnit u).tables = s.tables := by
  cases u <;> simp [State.offerUnit]
@[simp] theorem State.offerUnit_stagingHold (s : State) (u : Option (UnitKind × List Byte)) : (s.offerUnit u).stagingHold = s.stagingHold := by
  cases u <;> simp [State.offerUnit]
@[simp] theorem State.offerUnit_channels (s : State) (u : Option (UnitKind × List Byte)) : (s.offerUnit u).channels = s.channels := by
  cases u <;> simp [State.offerUnit]
@[simp] theorem State.offerUnit_engine (s : State) (u : Option (UnitKind × List Byte)) : (s.offerUnit u).engine = s.engine := by
  cases u <;> simp [State.offerUnit]
@[simp] theorem State.offerUnit_trace (s : State) (u : Option (UnitKind × List Byte)) : (s.offerUnit u).trace = s.trace := by
  cases u <;> simp [State.offerUnit]
@[simp] theorem State.offerUnit_pending (s : State) (u : Option (UnitKind × List Byte)) : (s.offerUnit u).pending = s.pending := by
  cases u <;> simp [State.offerUnit]
@[simp] theorem State.offerUnit_channel (s : State) (u : Option (UnitKind × List Byte)) (m : Nat) : (s.offerUnit u).channel m = s.channel m :=
  State.channel_congr (State.offerUnit_channels s u) m


/-! ## The engine (Chapter 5) -/

@[simp] theorem State.voidJobs_management (s : State) (n : Nat) (p : Job → Bool) : (s.voidJobs n p).management = s.management := by simp [State.voidJobs]
@[simp] theorem State.voidJobs_highway (s : State) (n : Nat) (p : Job → Bool) : (s.voidJobs n p).highway = s.highway := by simp [State.voidJobs]
@[simp] theorem State.voidJobs_links (s : State) (n : Nat) (p : Job → Bool) : (s.voidJobs n p).links = s.links := by simp [State.voidJobs]
@[simp] theorem State.voidJobs_tables (s : State) (n : Nat) (p : Job → Bool) : (s.voidJobs n p).tables = s.tables := by simp [State.voidJobs]
@[simp] theorem State.voidJobs_stagingHold (s : State) (n : Nat) (p : Job → Bool) : (s.voidJobs n p).stagingHold = s.stagingHold := by simp [State.voidJobs]
@[simp] theorem State.voidJobs_trace (s : State) (n : Nat) (p : Job → Bool) : (s.voidJobs n p).trace = s.trace := by simp [State.voidJobs]
@[simp] theorem State.voidJobs_pending (s : State) (n : Nat) (p : Job → Bool) : (s.voidJobs n p).pending = s.pending := by simp [State.voidJobs]

@[simp] theorem State.takeJob_management (s : State) : (s.takeJob).management = s.management := by
  unfold State.takeJob; split <;> [rfl; (split <;> rfl)]
@[simp] theorem State.takeJob_highway (s : State) : (s.takeJob).highway = s.highway := by
  unfold State.takeJob; split <;> [rfl; (split <;> rfl)]
@[simp] theorem State.takeJob_links (s : State) : (s.takeJob).links = s.links := by
  unfold State.takeJob; split <;> [rfl; (split <;> rfl)]
@[simp] theorem State.takeJob_tables (s : State) : (s.takeJob).tables = s.tables := by
  unfold State.takeJob; split <;> [rfl; (split <;> rfl)]
@[simp] theorem State.takeJob_stagingHold (s : State) : (s.takeJob).stagingHold = s.stagingHold := by
  unfold State.takeJob; split <;> [rfl; (split <;> rfl)]
@[simp] theorem State.takeJob_channels (s : State) : (s.takeJob).channels = s.channels := by
  unfold State.takeJob; split <;> [rfl; (split <;> rfl)]
@[simp] theorem State.takeJob_status (s : State) : (s.takeJob).status = s.status := by
  unfold State.takeJob; split <;> [rfl; (split <;> rfl)]
@[simp] theorem State.takeJob_trace (s : State) : (s.takeJob).trace = s.trace := by
  unfold State.takeJob; split <;> [rfl; (split <;> rfl)]
@[simp] theorem State.takeJob_pending (s : State) : (s.takeJob).pending = s.pending := by
  unfold State.takeJob; split <;> [rfl; (split <;> rfl)]
@[simp] theorem State.takeJob_channel (s : State) (m : Nat) : (s.takeJob).channel m = s.channel m :=
  State.channel_congr (State.takeJob_channels s) m

@[simp] theorem State.endRun_management (s : State) : (s.endRun).management = s.management := by simp [State.endRun]
@[simp] theorem State.endRun_highway (s : State) : (s.endRun).highway = s.highway := by simp [State.endRun]
@[simp] theorem State.endRun_links (s : State) : (s.endRun).links = s.links := by simp [State.endRun]
@[simp] theorem State.endRun_tables (s : State) : (s.endRun).tables = s.tables := by simp [State.endRun]
@[simp] theorem State.endRun_stagingHold (s : State) : (s.endRun).stagingHold = s.stagingHold := by simp [State.endRun]
@[simp] theorem State.endRun_channels (s : State) : (s.endRun).channels = s.channels := by simp [State.endRun]
@[simp] theorem State.endRun_status (s : State) : (s.endRun).status = s.status := by simp [State.endRun]
@[simp] theorem State.endRun_trace (s : State) : (s.endRun).trace = s.trace := by simp [State.endRun]
@[simp] theorem State.endRun_pending (s : State) : (s.endRun).pending = s.pending := by simp [State.endRun]
@[simp] theorem State.endRun_channel (s : State) (m : Nat) : (s.endRun).channel m = s.channel m :=
  State.channel_congr (State.endRun_channels s) m

@[simp] theorem State.placeJob_management (s : State) (j : Job) : (s.placeJob j).management = s.management := by
  unfold State.placeJob; split <;> simp
@[simp] theorem State.placeJob_highway (s : State) (j : Job) : (s.placeJob j).highway = s.highway := by
  unfold State.placeJob; split <;> simp
@[simp] theorem State.placeJob_links (s : State) (j : Job) : (s.placeJob j).links = s.links := by
  unfold State.placeJob; split <;> simp
@[simp] theorem State.placeJob_tables (s : State) (j : Job) : (s.placeJob j).tables = s.tables := by
  unfold State.placeJob; split <;> simp
@[simp] theorem State.placeJob_stagingHold (s : State) (j : Job) : (s.placeJob j).stagingHold = s.stagingHold := by
  unfold State.placeJob; split <;> simp
@[simp] theorem State.placeJob_trace (s : State) (j : Job) : (s.placeJob j).trace = s.trace := by
  unfold State.placeJob; split <;> simp
@[simp] theorem State.placeJob_pending (s : State) (j : Job) : (s.placeJob j).pending = s.pending := by
  unfold State.placeJob; split <;> simp

@[simp] theorem State.issueJob_management (s : State) (j : Job) : (s.issueJob j).management = s.management := by simp [State.issueJob]
@[simp] theorem State.issueJob_highway (s : State) (j : Job) : (s.issueJob j).highway = s.highway := by simp [State.issueJob]
@[simp] theorem State.issueJob_links (s : State) (j : Job) : (s.issueJob j).links = s.links := by simp [State.issueJob]
@[simp] theorem State.issueJob_tables (s : State) (j : Job) : (s.issueJob j).tables = s.tables := by simp [State.issueJob]
@[simp] theorem State.issueJob_stagingHold (s : State) (j : Job) : (s.issueJob j).stagingHold = s.stagingHold := by simp [State.issueJob]
@[simp] theorem State.issueJob_trace (s : State) (j : Job) : (s.issueJob j).trace = s.trace := by simp [State.issueJob]
@[simp] theorem State.issueJob_pending (s : State) (j : Job) : (s.issueJob j).pending = s.pending := by simp [State.issueJob]

@[simp] theorem State.issueJobs_management (s : State) (jobs : List Job) : (s.issueJobs jobs).management = s.management := by
  unfold State.issueJobs
  induction jobs generalizing s with
  | nil => rfl
  | cons j js ih => simp [ih]
@[simp] theorem State.issueJobs_highway (s : State) (jobs : List Job) : (s.issueJobs jobs).highway = s.highway := by
  unfold State.issueJobs
  induction jobs generalizing s with
  | nil => rfl
  | cons j js ih => simp [ih]
@[simp] theorem State.issueJobs_links (s : State) (jobs : List Job) : (s.issueJobs jobs).links = s.links := by
  unfold State.issueJobs
  induction jobs generalizing s with
  | nil => rfl
  | cons j js ih => simp [ih]
@[simp] theorem State.issueJobs_tables (s : State) (jobs : List Job) : (s.issueJobs jobs).tables = s.tables := by
  unfold State.issueJobs
  induction jobs generalizing s with
  | nil => rfl
  | cons j js ih => simp [ih]
@[simp] theorem State.issueJobs_stagingHold (s : State) (jobs : List Job) : (s.issueJobs jobs).stagingHold = s.stagingHold := by
  unfold State.issueJobs
  induction jobs generalizing s with
  | nil => rfl
  | cons j js ih => simp [ih]
@[simp] theorem State.issueJobs_trace (s : State) (jobs : List Job) : (s.issueJobs jobs).trace = s.trace := by
  unfold State.issueJobs
  induction jobs generalizing s with
  | nil => rfl
  | cons j js ih => simp [ih]
@[simp] theorem State.issueJobs_pending (s : State) (jobs : List Job) : (s.issueJobs jobs).pending = s.pending := by
  unfold State.issueJobs
  induction jobs generalizing s with
  | nil => rfl
  | cons j js ih => simp [ih]

@[simp] theorem State.offerTrace_management (s : State) (j : Job) (samples : List Sample) : (s.offerTrace j samples).management = s.management := by
  unfold State.offerTrace; split <;> [split; skip] <;> rfl
@[simp] theorem State.offerTrace_highway (s : State) (j : Job) (samples : List Sample) : (s.offerTrace j samples).highway = s.highway := by
  unfold State.offerTrace; split <;> [split; skip] <;> rfl
@[simp] theorem State.offerTrace_links (s : State) (j : Job) (samples : List Sample) : (s.offerTrace j samples).links = s.links := by
  unfold State.offerTrace; split <;> [split; skip] <;> rfl
@[simp] theorem State.offerTrace_tables (s : State) (j : Job) (samples : List Sample) : (s.offerTrace j samples).tables = s.tables := by
  unfold State.offerTrace; split <;> [split; skip] <;> rfl
@[simp] theorem State.offerTrace_stagingHold (s : State) (j : Job) (samples : List Sample) : (s.offerTrace j samples).stagingHold = s.stagingHold := by
  unfold State.offerTrace; split <;> [split; skip] <;> rfl
@[simp] theorem State.offerTrace_channels (s : State) (j : Job) (samples : List Sample) : (s.offerTrace j samples).channels = s.channels := by
  unfold State.offerTrace; split <;> [split; skip] <;> rfl
@[simp] theorem State.offerTrace_engine (s : State) (j : Job) (samples : List Sample) : (s.offerTrace j samples).engine = s.engine := by
  unfold State.offerTrace; split <;> [split; skip] <;> rfl
@[simp] theorem State.offerTrace_pending (s : State) (j : Job) (samples : List Sample) : (s.offerTrace j samples).pending = s.pending := by
  unfold State.offerTrace; split <;> [split; skip] <;> rfl
@[simp] theorem State.offerTrace_channel (s : State) (j : Job) (samples : List Sample) (m : Nat) : (s.offerTrace j samples).channel m = s.channel m :=
  State.channel_congr (State.offerTrace_channels s j samples) m

@[simp] theorem State.deliverDecode_management (s : State) (r : Run) : (s.deliverDecode r).management = s.management := by simp [State.deliverDecode]
@[simp] theorem State.deliverDecode_highway (s : State) (r : Run) : (s.deliverDecode r).highway = s.highway := by simp [State.deliverDecode]
@[simp] theorem State.deliverDecode_links (s : State) (r : Run) : (s.deliverDecode r).links = s.links := by simp [State.deliverDecode]
@[simp] theorem State.deliverDecode_tables (s : State) (r : Run) : (s.deliverDecode r).tables = s.tables := by simp [State.deliverDecode]
@[simp] theorem State.deliverDecode_stagingHold (s : State) (r : Run) : (s.deliverDecode r).stagingHold = s.stagingHold := by simp [State.deliverDecode]
@[simp] theorem State.deliverDecode_pending (s : State) (r : Run) : (s.deliverDecode r).pending = s.pending := by simp [State.deliverDecode]

@[simp] theorem State.deliverEncode_management (s : State) (r : Run) (w : EncodeWork) : (s.deliverEncode r w).management = s.management := by simp [State.deliverEncode]
@[simp] theorem State.deliverEncode_highway (s : State) (r : Run) (w : EncodeWork) : (s.deliverEncode r w).highway = s.highway := by simp [State.deliverEncode]
@[simp] theorem State.deliverEncode_tables (s : State) (r : Run) (w : EncodeWork) : (s.deliverEncode r w).tables = s.tables := by simp [State.deliverEncode]
@[simp] theorem State.deliverEncode_stagingHold (s : State) (r : Run) (w : EncodeWork) : (s.deliverEncode r w).stagingHold = s.stagingHold := by simp [State.deliverEncode]
@[simp] theorem State.deliverEncode_pending (s : State) (r : Run) (w : EncodeWork) : (s.deliverEncode r w).pending = s.pending := by simp [State.deliverEncode]


/-! ## Boundaries and ticks (1.7, 2.3) -/

@[simp] theorem State.decidePlayout_management (s : State) (n : Nat) (depth : Nat) : (s.decidePlayout n depth).management = s.management := by simp [State.decidePlayout]
@[simp] theorem State.decidePlayout_highway (s : State) (n : Nat) (depth : Nat) : (s.decidePlayout n depth).highway = s.highway := by simp [State.decidePlayout]
@[simp] theorem State.decidePlayout_links (s : State) (n : Nat) (depth : Nat) : (s.decidePlayout n depth).links = s.links := by simp [State.decidePlayout]
@[simp] theorem State.decidePlayout_tables (s : State) (n : Nat) (depth : Nat) : (s.decidePlayout n depth).tables = s.tables := by simp [State.decidePlayout]
@[simp] theorem State.decidePlayout_stagingHold (s : State) (n : Nat) (depth : Nat) : (s.decidePlayout n depth).stagingHold = s.stagingHold := by simp [State.decidePlayout]
@[simp] theorem State.decidePlayout_engine (s : State) (n : Nat) (depth : Nat) : (s.decidePlayout n depth).engine = s.engine := by simp [State.decidePlayout]
@[simp] theorem State.decidePlayout_trace (s : State) (n : Nat) (depth : Nat) : (s.decidePlayout n depth).trace = s.trace := by simp [State.decidePlayout]
@[simp] theorem State.decidePlayout_pending (s : State) (n : Nat) (depth : Nat) : (s.decidePlayout n depth).pending = s.pending := by simp [State.decidePlayout]

@[simp] theorem State.decidedBoundary_management (s : State) (n : Nat) (b : Binding) : (s.decidedBoundary n b).management = s.management := by
  simp [State.decidedBoundary]
@[simp] theorem State.decidedBoundary_highway (s : State) (n : Nat) (b : Binding) : (s.decidedBoundary n b).highway = s.highway := by
  simp [State.decidedBoundary]
@[simp] theorem State.decidedBoundary_links (s : State) (n : Nat) (b : Binding) : (s.decidedBoundary n b).links = s.links := by
  simp [State.decidedBoundary]
@[simp] theorem State.decidedBoundary_tables (s : State) (n : Nat) (b : Binding) : (s.decidedBoundary n b).tables = s.tables := by
  simp [State.decidedBoundary]
@[simp] theorem State.decidedBoundary_stagingHold (s : State) (n : Nat) (b : Binding) : (s.decidedBoundary n b).stagingHold = s.stagingHold := by
  simp [State.decidedBoundary]
@[simp] theorem State.decidedBoundary_trace (s : State) (n : Nat) (b : Binding) : (s.decidedBoundary n b).trace = s.trace := by
  simp [State.decidedBoundary]
@[simp] theorem State.decidedBoundary_pending (s : State) (n : Nat) (b : Binding) : (s.decidedBoundary n b).pending = s.pending := by
  simp [State.decidedBoundary]
@[simp] theorem State.decidedBoundary_engine (s : State) (n : Nat) (b : Binding) : (s.decidedBoundary n b).engine = s.engine := by
  simp [State.decidedBoundary]

@[simp] theorem State.openBoundary_management (s : State) (n : Nat) (b : Binding) : (s.openBoundary n b).management = s.management := by
  simp [State.openBoundary]
@[simp] theorem State.openBoundary_highway (s : State) (n : Nat) (b : Binding) : (s.openBoundary n b).highway = s.highway := by
  simp [State.openBoundary]
@[simp] theorem State.openBoundary_links (s : State) (n : Nat) (b : Binding) : (s.openBoundary n b).links = s.links := by
  simp [State.openBoundary]
@[simp] theorem State.openBoundary_tables (s : State) (n : Nat) (b : Binding) : (s.openBoundary n b).tables = s.tables := by
  simp [State.openBoundary]
@[simp] theorem State.openBoundary_stagingHold (s : State) (n : Nat) (b : Binding) : (s.openBoundary n b).stagingHold = s.stagingHold := by
  simp [State.openBoundary]
@[simp] theorem State.openBoundary_trace (s : State) (n : Nat) (b : Binding) : (s.openBoundary n b).trace = s.trace := by
  simp [State.openBoundary]
@[simp] theorem State.openBoundary_pending (s : State) (n : Nat) (b : Binding) : (s.openBoundary n b).pending = s.pending := by
  simp [State.openBoundary]
@[simp] theorem State.openBoundary_engine (s : State) (n : Nat) (b : Binding) : (s.openBoundary n b).engine = s.engine := by
  simp [State.openBoundary]

@[simp] theorem State.closeBoundary_management (s : State) (n : Nat) : (s.closeBoundary n).management = s.management := by simp [State.closeBoundary]
@[simp] theorem State.closeBoundary_highway (s : State) (n : Nat) : (s.closeBoundary n).highway = s.highway := by simp [State.closeBoundary]
@[simp] theorem State.closeBoundary_links (s : State) (n : Nat) : (s.closeBoundary n).links = s.links := by simp [State.closeBoundary]
@[simp] theorem State.closeBoundary_tables (s : State) (n : Nat) : (s.closeBoundary n).tables = s.tables := by simp [State.closeBoundary]
@[simp] theorem State.closeBoundary_stagingHold (s : State) (n : Nat) : (s.closeBoundary n).stagingHold = s.stagingHold := by simp [State.closeBoundary]
@[simp] theorem State.closeBoundary_pending (s : State) (n : Nat) : (s.closeBoundary n).pending = s.pending := by simp [State.closeBoundary]

@[simp] theorem State.boundary_management (s : State) (n : Nat) : (s.boundary n).management = s.management := by
  unfold State.boundary; dsimp only; split <;> [split; skip] <;> simp
@[simp] theorem State.boundary_highway (s : State) (n : Nat) : (s.boundary n).highway = s.highway := by
  unfold State.boundary; dsimp only; split <;> [split; skip] <;> simp
@[simp] theorem State.boundary_links (s : State) (n : Nat) : (s.boundary n).links = s.links := by
  unfold State.boundary; dsimp only; split <;> [split; skip] <;> simp
@[simp] theorem State.boundary_tables (s : State) (n : Nat) : (s.boundary n).tables = s.tables := by
  unfold State.boundary; dsimp only; split <;> [split; skip] <;> simp
@[simp] theorem State.boundary_stagingHold (s : State) (n : Nat) : (s.boundary n).stagingHold = s.stagingHold := by
  unfold State.boundary; dsimp only; split <;> [split; skip] <;> simp
@[simp] theorem State.boundary_pending (s : State) (n : Nat) : (s.boundary n).pending = s.pending := by
  unfold State.boundary; dsimp only; split <;> [split; skip] <;> simp

@[simp] theorem State.takeBoundaries_management (s : State) (contexts : List Nat) (order : List JobRef) : (s.takeBoundaries contexts order).management = s.management := by
  unfold State.takeBoundaries
  rw [State.issueJobs_management]
  induction contexts generalizing s with
  | nil => rfl
  | cons n ns ih => simp [ih]
@[simp] theorem State.takeBoundaries_highway (s : State) (contexts : List Nat) (order : List JobRef) : (s.takeBoundaries contexts order).highway = s.highway := by
  unfold State.takeBoundaries
  rw [State.issueJobs_highway]
  induction contexts generalizing s with
  | nil => rfl
  | cons n ns ih => simp [ih]
@[simp] theorem State.takeBoundaries_links (s : State) (contexts : List Nat) (order : List JobRef) : (s.takeBoundaries contexts order).links = s.links := by
  unfold State.takeBoundaries
  rw [State.issueJobs_links]
  induction contexts generalizing s with
  | nil => rfl
  | cons n ns ih => simp [ih]
@[simp] theorem State.takeBoundaries_tables (s : State) (contexts : List Nat) (order : List JobRef) : (s.takeBoundaries contexts order).tables = s.tables := by
  unfold State.takeBoundaries
  rw [State.issueJobs_tables]
  induction contexts generalizing s with
  | nil => rfl
  | cons n ns ih => simp [ih]
@[simp] theorem State.takeBoundaries_stagingHold (s : State) (contexts : List Nat) (order : List JobRef) : (s.takeBoundaries contexts order).stagingHold = s.stagingHold := by
  unfold State.takeBoundaries
  rw [State.issueJobs_stagingHold]
  induction contexts generalizing s with
  | nil => rfl
  | cons n ns ih => simp [ih]
@[simp] theorem State.takeBoundaries_pending (s : State) (contexts : List Nat) (order : List JobRef) : (s.takeBoundaries contexts order).pending = s.pending := by
  unfold State.takeBoundaries
  rw [State.issueJobs_pending]
  induction contexts generalizing s with
  | nil => rfl
  | cons n ns ih => simp [ih]

@[simp] theorem State.contextBoundary_management (s : State) (n : Nat) (order : List JobRef) : (s.contextBoundary n order).management = s.management := by
  simp [State.contextBoundary]
@[simp] theorem State.contextBoundary_highway (s : State) (n : Nat) (order : List JobRef) : (s.contextBoundary n order).highway = s.highway := by
  simp [State.contextBoundary]
@[simp] theorem State.contextBoundary_links (s : State) (n : Nat) (order : List JobRef) : (s.contextBoundary n order).links = s.links := by
  simp [State.contextBoundary]
@[simp] theorem State.contextBoundary_tables (s : State) (n : Nat) (order : List JobRef) : (s.contextBoundary n order).tables = s.tables := by
  simp [State.contextBoundary]
@[simp] theorem State.contextBoundary_stagingHold (s : State) (n : Nat) (order : List JobRef) : (s.contextBoundary n order).stagingHold = s.stagingHold := by
  simp [State.contextBoundary]
@[simp] theorem State.contextBoundary_pending (s : State) (n : Nat) (order : List JobRef) : (s.contextBoundary n order).pending = s.pending := by
  simp [State.contextBoundary]

@[simp] theorem State.composeNotice_management (s : State) : (s.composeNotice).management = s.management := by
  unfold State.composeNotice; split <;> simp
@[simp] theorem State.composeNotice_highway (s : State) : (s.composeNotice).highway = s.highway := by
  unfold State.composeNotice; split <;> simp
@[simp] theorem State.composeNotice_tables (s : State) : (s.composeNotice).tables = s.tables := by
  unfold State.composeNotice; split <;> simp
@[simp] theorem State.composeNotice_stagingHold (s : State) : (s.composeNotice).stagingHold = s.stagingHold := by
  unfold State.composeNotice; split <;> simp
@[simp] theorem State.composeNotice_channels (s : State) : (s.composeNotice).channels = s.channels := by
  unfold State.composeNotice; split <;> simp
@[simp] theorem State.composeNotice_engine (s : State) : (s.composeNotice).engine = s.engine := by
  unfold State.composeNotice; split <;> simp
@[simp] theorem State.composeNotice_trace (s : State) : (s.composeNotice).trace = s.trace := by
  unfold State.composeNotice; split <;> simp
@[simp] theorem State.composeNotice_pending (s : State) : (s.composeNotice).pending = s.pending := by
  unfold State.composeNotice; split <;> simp
@[simp] theorem State.composeNotice_channel (s : State) (m : Nat) : (s.composeNotice).channel m = s.channel m :=
  State.channel_congr (State.composeNotice_channels s) m

/-! ## The flag events left by a tick (log 3) -/

@[simp] theorem State.takeTransitions_management (s : State) : s.takeTransitions.management = s.management := rfl
@[simp] theorem State.takeTransitions_links (s : State) : s.takeTransitions.links = s.links := rfl
@[simp] theorem State.takeTransitions_tables (s : State) : s.takeTransitions.tables = s.tables := rfl
@[simp] theorem State.takeTransitions_stagingHold (s : State) : s.takeTransitions.stagingHold = s.stagingHold := rfl
@[simp] theorem State.takeTransitions_channels (s : State) : s.takeTransitions.channels = s.channels := rfl
@[simp] theorem State.takeTransitions_engine (s : State) : s.takeTransitions.engine = s.engine := rfl
@[simp] theorem State.takeTransitions_trace (s : State) : s.takeTransitions.trace = s.trace := rfl
@[simp] theorem State.takeTransitions_pending (s : State) : s.takeTransitions.pending = s.pending := rfl
@[simp] theorem State.takeTransitions_channel (s : State) (m : Nat) : s.takeTransitions.channel m = s.channel m := rfl
@[simp] theorem State.takeTransitions_highway (s : State) :
    s.takeTransitions.highway = { s.highway with transitions := .none } := rfl

/-- With none left, nothing is taken. -/
theorem State.takeTransitions_of_none {s : State} (h : s.highway.transitions = .none) : s.takeTransitions = s := by
  obtain ⟨m, ⟨hw, src, fc, cc, due, tr, clk⟩, l, t, sh, c, e, st, trc, p⟩ := s
  cases h; rfl

@[simp] theorem State.cycleBoundary_management (s : State) : (s.cycleBoundary).management = s.management := by
  unfold State.cycleBoundary; split <;> simp
@[simp] theorem State.cycleBoundary_tables (s : State) : (s.cycleBoundary).tables = s.tables := by
  unfold State.cycleBoundary; split <;> simp
@[simp] theorem State.cycleBoundary_stagingHold (s : State) : (s.cycleBoundary).stagingHold = s.stagingHold := by
  unfold State.cycleBoundary; split <;> simp
@[simp] theorem State.cycleBoundary_channels (s : State) : (s.cycleBoundary).channels = s.channels := by
  unfold State.cycleBoundary; split <;> simp
@[simp] theorem State.cycleBoundary_engine (s : State) : (s.cycleBoundary).engine = s.engine := by
  unfold State.cycleBoundary; split <;> simp
@[simp] theorem State.cycleBoundary_trace (s : State) : (s.cycleBoundary).trace = s.trace := by
  unfold State.cycleBoundary; split <;> simp
@[simp] theorem State.cycleBoundary_pending (s : State) : (s.cycleBoundary).pending = s.pending := by
  unfold State.cycleBoundary; split <;> simp
@[simp] theorem State.cycleBoundary_channel (s : State) (m : Nat) : (s.cycleBoundary).channel m = s.channel m :=
  State.channel_congr (State.cycleBoundary_channels s) m

@[simp] theorem State.boundaries_management (s : State) : (s.boundaries).management = s.management := by
  unfold State.boundaries
  generalize List.range Config.contexts = ns
  induction ns generalizing s with
  | nil => rfl
  | cons n ns ih => simp [ih]
@[simp] theorem State.boundaries_highway (s : State) : (s.boundaries).highway = s.highway := by
  unfold State.boundaries
  generalize List.range Config.contexts = ns
  induction ns generalizing s with
  | nil => rfl
  | cons n ns ih => simp [ih]
@[simp] theorem State.boundaries_links (s : State) : (s.boundaries).links = s.links := by
  unfold State.boundaries
  generalize List.range Config.contexts = ns
  induction ns generalizing s with
  | nil => rfl
  | cons n ns ih => simp [ih]
@[simp] theorem State.boundaries_tables (s : State) : (s.boundaries).tables = s.tables := by
  unfold State.boundaries
  generalize List.range Config.contexts = ns
  induction ns generalizing s with
  | nil => rfl
  | cons n ns ih => simp [ih]
@[simp] theorem State.boundaries_stagingHold (s : State) : (s.boundaries).stagingHold = s.stagingHold := by
  unfold State.boundaries
  generalize List.range Config.contexts = ns
  induction ns generalizing s with
  | nil => rfl
  | cons n ns ih => simp [ih]
@[simp] theorem State.boundaries_pending (s : State) : (s.boundaries).pending = s.pending := by
  unfold State.boundaries
  generalize List.range Config.contexts = ns
  induction ns generalizing s with
  | nil => rfl
  | cons n ns ih => simp [ih]

@[simp] theorem State.finishTick_management (s : State) : (s.finishTick).management = s.management := by simp [State.finishTick]
@[simp] theorem State.finishTick_tables (s : State) : (s.finishTick).tables = s.tables := by simp [State.finishTick]
@[simp] theorem State.finishTick_stagingHold (s : State) : (s.finishTick).stagingHold = s.stagingHold := by simp [State.finishTick]
@[simp] theorem State.finishTick_pending (s : State) : (s.finishTick).pending = s.pending := by simp [State.finishTick]

@[simp] theorem State.advance_management (s : State) (inputs : Vector HighwayInput 4) : (s.advance inputs).management = s.management := rfl
@[simp] theorem State.tick_management (s : State) (input : TickInput) : (s.tick input).management = s.management := by
  unfold State.tick; split <;> rfl
@[simp] theorem State.advance_links (s : State) (inputs : Vector HighwayInput 4) : (s.advance inputs).links = s.links := rfl
@[simp] theorem State.tick_links (s : State) (input : TickInput) : (s.tick input).links = s.links := by
  unfold State.tick; split <;> rfl
@[simp] theorem State.advance_tables (s : State) (inputs : Vector HighwayInput 4) : (s.advance inputs).tables = s.tables := rfl
@[simp] theorem State.tick_tables (s : State) (input : TickInput) : (s.tick input).tables = s.tables := by
  unfold State.tick; split <;> rfl
@[simp] theorem State.advance_stagingHold (s : State) (inputs : Vector HighwayInput 4) : (s.advance inputs).stagingHold = s.stagingHold := rfl
@[simp] theorem State.tick_stagingHold (s : State) (input : TickInput) : (s.tick input).stagingHold = s.stagingHold := by
  unfold State.tick; split <;> rfl
@[simp] theorem State.advance_engine (s : State) (inputs : Vector HighwayInput 4) : (s.advance inputs).engine = s.engine := rfl
@[simp] theorem State.tick_engine (s : State) (input : TickInput) : (s.tick input).engine = s.engine := by
  unfold State.tick; split <;> rfl
@[simp] theorem State.advance_trace (s : State) (inputs : Vector HighwayInput 4) : (s.advance inputs).trace = s.trace := rfl
@[simp] theorem State.tick_trace (s : State) (input : TickInput) : (s.tick input).trace = s.trace := by
  unfold State.tick; split <;> rfl
@[simp] theorem State.advance_pending (s : State) (inputs : Vector HighwayInput 4) : (s.advance inputs).pending = s.pending := rfl
@[simp] theorem State.tick_pending (s : State) (input : TickInput) : (s.tick input).pending = s.pending := by
  unfold State.tick; split <;> rfl


/-! ## Reset and the management channel -/

@[simp] theorem State.beginReset_tables (s : State) : (s.beginReset).tables = s.tables := rfl
@[simp] theorem State.beginReset_stagingHold (s : State) : (s.beginReset).stagingHold = s.stagingHold := rfl
@[simp] theorem State.beginReset_status (s : State) : (s.beginReset).status = s.status := rfl
@[simp] theorem State.beginReset_trace (s : State) : (s.beginReset).trace = s.trace := rfl
@[simp] theorem State.beginReset_pending (s : State) : (s.beginReset).pending = s.pending := rfl

@[simp] theorem State.countMalformed_management (s : State) : (s.countMalformed).management = s.management := rfl
@[simp] theorem State.countMalformed_highway (s : State) : (s.countMalformed).highway = s.highway := rfl
@[simp] theorem State.countMalformed_links (s : State) : (s.countMalformed).links = s.links := rfl
@[simp] theorem State.countMalformed_tables (s : State) : (s.countMalformed).tables = s.tables := rfl
@[simp] theorem State.countMalformed_stagingHold (s : State) : (s.countMalformed).stagingHold = s.stagingHold := rfl
@[simp] theorem State.countMalformed_channels (s : State) : (s.countMalformed).channels = s.channels := rfl
@[simp] theorem State.countMalformed_engine (s : State) : (s.countMalformed).engine = s.engine := rfl
@[simp] theorem State.countMalformed_trace (s : State) : (s.countMalformed).trace = s.trace := rfl
@[simp] theorem State.countMalformed_pending (s : State) : (s.countMalformed).pending = s.pending := rfl
@[simp] theorem State.countMalformed_channel (s : State) (m : Nat) : (s.countMalformed).channel m = s.channel m :=
  State.channel_congr (State.countMalformed_channels s) m

@[simp] theorem State.respond_highway (s : State) (seq : Byte) (payload : List Byte) (restart : Bool) : (s.respond seq payload restart).highway = s.highway := by
  unfold State.respond; dsimp only; split <;> simp
@[simp] theorem State.respond_tables (s : State) (seq : Byte) (payload : List Byte) (restart : Bool) : (s.respond seq payload restart).tables = s.tables := by
  unfold State.respond; dsimp only; split <;> simp
@[simp] theorem State.respond_stagingHold (s : State) (seq : Byte) (payload : List Byte) (restart : Bool) : (s.respond seq payload restart).stagingHold = s.stagingHold := by
  unfold State.respond; dsimp only; split <;> simp
@[simp] theorem State.respond_channels (s : State) (seq : Byte) (payload : List Byte) (restart : Bool) : (s.respond seq payload restart).channels = s.channels := by
  unfold State.respond; dsimp only; split <;> simp
@[simp] theorem State.respond_engine (s : State) (seq : Byte) (payload : List Byte) (restart : Bool) : (s.respond seq payload restart).engine = s.engine := by
  unfold State.respond; dsimp only; split <;> simp
@[simp] theorem State.respond_trace (s : State) (seq : Byte) (payload : List Byte) (restart : Bool) : (s.respond seq payload restart).trace = s.trace := by
  unfold State.respond; dsimp only; split <;> simp
@[simp] theorem State.respond_pending (s : State) (seq : Byte) (payload : List Byte) (restart : Bool) : (s.respond seq payload restart).pending = s.pending := by
  unfold State.respond; dsimp only; split <;> simp
@[simp] theorem State.respond_channel (s : State) (seq : Byte) (payload : List Byte) (restart : Bool) (m : Nat) : (s.respond seq payload restart).channel m = s.channel m :=
  State.channel_congr (State.respond_channels s seq payload restart) m


end Sys2Proof.Machine
end

