-- ==== Sys2Proof/Laws/Status.lean ====
section
/-! SUPPORT. Flag events and the saturating counters: what they do, said once. -/

namespace Sys2Proof.Machine

theorem Flag.bit_lt (f : Flag) : f.bit < 8 := by
  cases f <;> decide

theorem Flag.toByte_getLsbD (f : Flag) (k : Nat) : f.toByte.getLsbD k = (k == f.bit) := by
  by_cases hk : k < 8
  · have : k = 0 ∨ k = 1 ∨ k = 2 ∨ k = 3 ∨ k = 4 ∨ k = 5 ∨ k = 6 ∨ k = 7 := by omega
    rcases this with rfl | rfl | rfl | rfl | rfl | rfl | rfl | rfl <;> cases f <;> decide
  · have := f.bit_lt
    rw [BitVec.getLsbD_of_ge _ _ (by omega)]
    symm; rw [beq_eq_false_iff_ne]; omega

/-- A flag event sets its own bit and no other. -/
theorem Status.raise_flag (st : Status) (f : Flag) (k : Nat) :
    (st.raise f).flags.getLsbD k = (st.flags.getLsbD k || k == f.bit) := by
  unfold Status.raise
  split
  · rename_i h
    by_cases hk : k = f.bit
    · subst hk; simp [h]
    · simp [hk]
  · simp only [BitVec.getLsbD_or, Flag.toByte_getLsbD]

theorem Status.raise_noticeWanted (st : Status) (f : Flag) :
    (st.raise f).noticeWanted =
      (st.noticeWanted || (!st.flags.getLsbD f.bit && !st.mask.getLsbD f.bit)) := by
  unfold Status.raise; split <;> simp [*]

@[simp] theorem Status.raise_mask (st : Status) (f : Flag) : (st.raise f).mask = st.mask := by
  unfold Status.raise; split <;> rfl
@[simp] theorem Status.raise_healthChanged (st : Status) (f : Flag) : (st.raise f).healthChanged = st.healthChanged := by
  unfold Status.raise; split <;> rfl
@[simp] theorem Status.raise_counters (st : Status) (f : Flag) : (st.raise f).counters = st.counters := by
  unfold Status.raise; split <;> rfl

theorem Status.raiseIf_flag (st : Status) (b : Bool) (f : Flag) (k : Nat) :
    (st.raiseIf b f).flags.getLsbD k = (st.flags.getLsbD k || (b && k == f.bit)) := by
  unfold Status.raiseIf; split
  · simp [Status.raise_flag, *]
  · simp [*]

@[simp] theorem Status.raiseIf_mask (st : Status) (b : Bool) (f : Flag) : (st.raiseIf b f).mask = st.mask := by
  unfold Status.raiseIf; split <;> simp
@[simp] theorem Status.raiseIf_healthChanged (st : Status) (b : Bool) (f : Flag) :
    (st.raiseIf b f).healthChanged = st.healthChanged := by
  unfold Status.raiseIf; split <;> simp
@[simp] theorem Status.raiseIf_counters (st : Status) (b : Bool) (f : Flag) :
    (st.raiseIf b f).counters = st.counters := by
  unfold Status.raiseIf; split <;> simp

@[simp] theorem State.raise_status (s : State) (f : Flag) : (s.raise f).status = s.status.raise f := rfl

/-! ## Health transitions -/

/-- A health transition sets STREAM-GAIN or STREAM-LOSS. -/
theorem Status.healthMoved_flag (st : Status) (n : Nat) (before after : Health) (k : Nat) :
    (st.healthMoved n before after).flags.getLsbD k =
      (st.flags.getLsbD k || (before == .absent && after == .present && k == 4) ||
        (before == .present && after == .absent && k == 3)) := by
  have h1 : (Health.absent == Health.present) = false := rfl
  have h2 : (Health.present == Health.absent) = false := rfl
  cases before <;> cases after <;>
    simp [Status.healthMoved, Status.addHealthChange, Status.raise_flag, Flag.bit, h1, h2]

@[simp] theorem Status.healthMoved_mask (st : Status) (n : Nat) (before after : Health) :
    (st.healthMoved n before after).mask = st.mask := by
  cases before <;> cases after <;> simp [Status.healthMoved, Status.addHealthChange]
@[simp] theorem Status.healthMoved_counters (st : Status) (n : Nat) (before after : Health) :
    (st.healthMoved n before after).counters = st.counters := by
  cases before <;> cases after <;> simp [Status.healthMoved, Status.addHealthChange]

theorem mem_insertNumber (n m : Nat) (l : List Nat) : m ∈ insertNumber n l ↔ m = n ∨ m ∈ l := by
  induction l with
  | nil => simp [insertNumber]
  | cons x xs ih =>
    unfold insertNumber
    split
    · simp
    · split
      · rename_i h; subst h; simp
      · simp [ih]; tauto

/-- A number joins an ascending list in its place. -/
theorem insertNumber_ascending (n : Nat) (l : List Nat) (h : l.Pairwise (· < ·)) : (insertNumber n l).Pairwise (· < ·) := by
  induction l with
  | nil => simp [insertNumber]
  | cons x xs ih =>
    rw [List.pairwise_cons] at h
    unfold insertNumber
    split
    · rename_i hn
      rw [List.pairwise_cons, List.pairwise_cons]
      refine ⟨?_, h⟩
      intro y hy
      rcases List.mem_cons.1 hy with rfl | hy
      · exact hn
      · exact Nat.lt_trans hn (h.1 y hy)
    · split
      · exact List.pairwise_cons.2 h
      · rw [List.pairwise_cons]
        refine ⟨?_, ih h.2⟩
        intro y hy
        rcases (mem_insertNumber n y xs).1 hy with rfl | hy
        · omega
        · exact h.1 y hy

/-- A health transition puts the context's number in the list. -/
theorem Status.mem_healthMoved (st : Status) (n m : Nat) (before after : Health) :
    m ∈ (st.healthMoved n before after).healthChanged ↔
      m ∈ st.healthChanged ∨ (m = n ∧ before ≠ after) := by
  cases before <;> cases after <;>
    simp [Status.healthMoved, Status.addHealthChange, mem_insertNumber, or_comm]

/-! ## Engine-late -/

/-- Counting voided or refused jobs: nothing for none, else the counter and ENGINE-LATE. -/
theorem State.countEngineLate_flag (s : State) (n k : Nat) (b : Nat) :
    (s.countEngineLate n k).status.flags.getLsbD b = (s.status.flags.getLsbD b || (k != 0 && b == 5)) := by
  cases k with
  | zero => simp [State.countEngineLate]
  | succ k =>
    simp [State.countEngineLate, Status.raise_flag, Flag.bit]

@[simp] theorem State.countEngineLate_mask (s : State) (n k : Nat) :
    (s.countEngineLate n k).status.mask = s.status.mask := by
  unfold State.countEngineLate; split <;> simp
@[simp] theorem State.countEngineLate_counters (s : State) (n k : Nat) :
    (s.countEngineLate n k).status.counters = s.status.counters := by
  unfold State.countEngineLate; split <;> simp
@[simp] theorem State.countEngineLate_healthChanged (s : State) (n k : Nat) :
    (s.countEngineLate n k).status.healthChanged = s.status.healthChanged := by
  unfold State.countEngineLate; split <;> simp

/-! ## Notice-wanted follows the flags -/

theorem Status.NoticeFollows.refl (st : Status) : st.NoticeFollows st :=
  ⟨fun _ h => h, rfl, by simp +contextual⟩

/-- Flag events taken one after another. -/
theorem Status.NoticeFollows.trans {a b c : Status} (h : a.NoticeFollows b) (g : b.NoticeFollows c) : a.NoticeFollows c where
  sticky k hk := g.sticky k (h.sticky k hk)
  mask := g.mask.trans h.mask
  wanted := by
    rw [g.wanted, h.wanted, h.mask]
    constructor
    · rintro ((w | ⟨k, h0, h1, hm⟩) | ⟨k, h0, h1, hm⟩)
      · exact .inl w
      · exact .inr ⟨k, h0, g.sticky k h1, hm⟩
      · refine .inr ⟨k, ?_, h1, hm⟩
        cases hk : a.flags.getLsbD k with
        | false => rfl
        | true => rw [h.sticky k hk] at h0; cases h0
    · rintro (w | ⟨k, h0, h1, hm⟩)
      · exact .inl (.inl w)
      · cases hk : b.flags.getLsbD k with
        | false => exact .inr ⟨k, hk, h1, hm⟩
        | true => exact .inl (.inr ⟨k, h0, hk, hm⟩)

theorem Status.NoticeFollows.raise (st : Status) (f : Flag) : st.NoticeFollows (st.raise f) where
  sticky k hk := by rw [Status.raise_flag, hk]; rfl
  mask := Status.raise_mask st f
  wanted := by
    rw [Status.raise_noticeWanted]
    simp only [Status.raise_flag, Bool.or_eq_true, Bool.and_eq_true, Bool.not_eq_true', beq_iff_eq]
    constructor
    · rintro (w | ⟨h0, hm⟩)
      · exact .inl w
      · exact .inr ⟨f.bit, h0, .inr rfl, hm⟩
    · rintro (w | ⟨k, h0, h1 | rfl, hm⟩)
      · exact .inl w
      · rw [h0] at h1; cases h1
      · exact .inr ⟨h0, hm⟩

theorem Status.NoticeFollows.raiseIf (st : Status) (b : Bool) (f : Flag) : st.NoticeFollows (st.raiseIf b f) := by
  unfold Status.raiseIf; split
  · exact .raise st f
  · exact .refl st

/-- What only the flags, the mask and notice-wanted decide. -/
theorem Status.NoticeFollows.of_eq {a b : Status} (flags : b.flags = a.flags) (mask : b.mask = a.mask)
    (wanted : b.noticeWanted = a.noticeWanted) : a.NoticeFollows b :=
  ⟨fun k h => by rw [flags, h], mask, by simp +contextual [flags, wanted]⟩

theorem Status.NoticeFollows.healthMoved (st : Status) (n : Nat) (before after : Health) :
    st.NoticeFollows (st.healthMoved n before after) := by
  cases before <;> cases after <;> simp only [Status.healthMoved]
  all_goals
    first
    | exact .refl st
    | exact .trans (.raise st _) (.of_eq rfl rfl rfl)

theorem State.countEngineLate_noticeFollows (s : State) (n k : Nat) :
    s.status.NoticeFollows (s.countEngineLate n k).status := by
  unfold State.countEngineLate; split
  · exact .refl _
  · exact .raise _ _

theorem State.takeTransitions_noticeFollows (s : State) : s.status.NoticeFollows s.takeTransitions.status :=
  ((Status.NoticeFollows.raiseIf _ _ _).trans (.raiseIf _ _ _)).trans (.raiseIf _ _ _)

end Sys2Proof.Machine
end

