-- ==== Sys2Proof/Laws/Owed.lean ====
section
/-! SUPPORT. The work a tick owes: what takes it, and that nothing is owed once `finishTick` has run (log 3). -/

namespace Sys2Proof.Machine

/-! ## Contexts and their boundary marks -/

theorem Channel.transfer_boundaryDue (c : Channel) (hw : Vector Highway 4) (f : Nat) :
    (c.transfer hw f).boundaryDue = c.boundaryDue := by
  unfold Channel.transfer; split <;> rfl

theorem Channel.boundaryWork_boundaryDue (c : Channel) (b : Binding) (hold : Bool) :
    (c.boundaryWork b hold).boundaryDue = false := by
  unfold Channel.boundaryWork; simp only; split <;> rfl

theorem State.countEngineLate_channel (s : State) (n k m : Nat) :
    (s.countEngineLate n k).channel m =
      if m = n ∧ n < 192 ∧ k ≠ 0 then
        { s.channel n with
          counters := { (s.channel n).counters with engineLate := countUp (s.channel n).counters.engineLate k } }
      else s.channel m := by
  unfold State.countEngineLate
  by_cases hk : k = 0
  · simp [hk]
  · simp only [hk, if_false, State.raise_channel, State.channel_updateChannel]
    simp [hk]

theorem State.countEngineLate_boundaryDue (s : State) (n k m : Nat) :
    ((s.countEngineLate n k).channel m).boundaryDue = (s.channel m).boundaryDue := by
  rw [State.countEngineLate_channel]; split
  · rename_i h; rw [h.1]
  · rfl

theorem State.voidJobs_boundaryDue (s : State) (n m : Nat) (p : Job → Bool) :
    ((s.voidJobs n p).channel m).boundaryDue = (s.channel m).boundaryDue := by
  unfold State.voidJobs; rw [State.countEngineLate_boundaryDue]; rfl

theorem State.placeJob_channel_boundaryDue (s : State) (j : Job) (m : Nat) :
    ((s.placeJob j).channel m).boundaryDue = (s.channel m).boundaryDue := by
  unfold State.placeJob
  split
  · rw [State.takeJob_channel]; rfl
  · exact State.countEngineLate_boundaryDue s _ _ m

theorem State.issueJob_boundaryDue (s : State) (j : Job) (m : Nat) :
    ((s.issueJob j).channel m).boundaryDue = (s.channel m).boundaryDue := by
  unfold State.issueJob
  rw [State.placeJob_channel_boundaryDue]; exact State.voidJobs_boundaryDue s _ m _

theorem State.issueJobs_boundaryDue (jobs : List Job) (s : State) (m : Nat) :
    ((s.issueJobs jobs).channel m).boundaryDue = (s.channel m).boundaryDue := by
  unfold State.issueJobs
  induction jobs generalizing s with
  | nil => rfl
  | cons j js ih => rw [List.foldl_cons, ih, State.issueJob_boundaryDue]

theorem State.decidePlayout_channel (s : State) (n depth m : Nat) (h : m ≠ n) :
    (s.decidePlayout n depth).channel m = s.channel m := by
  unfold State.decidePlayout
  exact State.channel_setChannel_ne s n m _ h

theorem State.decidePlayout_boundaryDue (s : State) (n depth m : Nat) :
    ((s.decidePlayout n depth).channel m).boundaryDue = (s.channel m).boundaryDue := by
  by_cases h : m = n
  · subst h
    unfold State.decidePlayout
    show (((s.setChannel m _).channel m)).boundaryDue = _
    rw [State.channel_setChannel]
    split <;> rfl
  · rw [State.decidePlayout_channel _ _ _ _ h]

theorem State.openBoundary_boundaryDue (s : State) (n : Nat) (b : Binding) (m : Nat) :
    ((s.openBoundary n b).channel m).boundaryDue = if m = n then false else (s.channel m).boundaryDue := by
  have decided : ((s.decidedBoundary n b).channel m).boundaryDue =
      if m = n then false else (s.channel m).boundaryDue := by
    unfold State.decidedBoundary
    rw [State.decidePlayout_boundaryDue, State.channel_updateChannel]
    by_cases hmn : m = n
    · by_cases hn : n < 192
      · simp [hmn, hn, Channel.boundaryWork_boundaryDue]
      · subst hmn
        simp [hn, State.channel_out s m (by omega), Channel.atReset]
    · simp [hmn]
  unfold State.openBoundary
  rw [State.channel_updateChannel]
  split
  · rename_i h
    rw [Channel.transfer_boundaryDue]
    obtain ⟨rfl, _⟩ := h
    exact decided
  · exact decided

theorem State.closeBoundary_boundaryDue (s : State) (n m : Nat) :
    ((s.closeBoundary n).channel m).boundaryDue = if m = n then false else (s.channel m).boundaryDue := by
  unfold State.closeBoundary
  show (((s.voidJobs n _).updateChannel n Channel.released).channel m).boundaryDue = _
  rw [State.channel_updateChannel]
  by_cases hmn : m = n
  · by_cases hn : n < 192
    · simp [hmn, hn, Channel.released]
    · subst hmn
      simp only [hn, and_false, if_false, if_true]
      rw [State.voidJobs_boundaryDue, State.channel_out s m (by omega)]; rfl
  · simp only [hmn, false_and, if_false]
    exact State.voidJobs_boundaryDue s n m _

/-- A context's boundary takes its mark away and leaves the marks of the others. -/
theorem State.boundary_boundaryDue (s : State) (n m : Nat) :
    ((s.boundary n).channel m).boundaryDue = if m = n then false else (s.channel m).boundaryDue := by
  unfold State.boundary
  simp only
  split
  · split
    · exact State.openBoundary_boundaryDue s n _ m
    · exact State.closeBoundary_boundaryDue s n m
    · rw [State.channel_setChannel]
      by_cases hmn : m = n
      · by_cases hn : n < 192
        · simp [hmn, hn]
        · subst hmn
          simp [hn, State.channel_out s m (by omega), Channel.atReset]
      · simp [hmn]
  · rename_i h
    by_cases hmn : m = n
    · subst hmn; simpa using h
    · simp [hmn]

theorem State.foldl_boundary_boundaryDue (l : List Nat) (s : State) (m : Nat) :
    ((l.foldl State.boundary s).channel m).boundaryDue = if m ∈ l then false else (s.channel m).boundaryDue := by
  induction l generalizing s with
  | nil => simp
  | cons n l ih =>
    rw [List.foldl_cons, ih, State.boundary_boundaryDue]
    by_cases h1 : m = n <;> by_cases h2 : m ∈ l <;> simp [h1, h2]

theorem mem_contextsNamed (n m : Nat) (order : List JobRef) :
    m ∈ contextsNamed n order ↔ m = n ∨ ∃ r ∈ order, r.context = m := by
  unfold contextsNamed
  induction order with
  | nil => simp
  | cons r rs ih =>
    rw [List.foldr_cons, mem_insertNumber, ih]
    simp only [List.mem_cons, exists_eq_or_imp]
    constructor
    · rintro (rfl | rfl | h)
      · exact .inr (.inl rfl)
      · exact .inl rfl
      · exact .inr (.inr h)
    · rintro (rfl | rfl | h)
      · exact .inr (.inl rfl)
      · exact .inl rfl
      · exact .inr (.inr h)

/-- Every named context stands once. -/
theorem contextsNamed_ascending (n : Nat) (order : List JobRef) : (contextsNamed n order).Pairwise (· < ·) := by
  unfold contextsNamed
  induction order with
  | nil => simp
  | cons r rs ih => exact insertNumber_ascending _ _ ih

/-- The boundaries of the named contexts take their marks away and leave the others'. -/
theorem State.contextBoundary_boundaryDue (s : State) (n : Nat) (order : List JobRef) (m : Nat) :
    ((s.contextBoundary n order).channel m).boundaryDue =
      if m ∈ contextsNamed n order then false else (s.channel m).boundaryDue := by
  unfold State.contextBoundary State.takeBoundaries
  rw [State.issueJobs_boundaryDue, State.foldl_boundary_boundaryDue]

/-- No context owes a boundary once all have been taken. -/
theorem State.boundaries_boundaryDue (s : State) (m : Nat) : (s.boundaries.channel m).boundaryDue = false := by
  have all (l : List Nat) (s : State) :
      ((l.foldl (fun s n => s.contextBoundary n []) s).channel m).boundaryDue =
        if m ∈ l then false else (s.channel m).boundaryDue := by
    induction l generalizing s with
    | nil => simp
    | cons n l ih =>
      rw [List.foldl_cons, ih, State.contextBoundary_boundaryDue]
      by_cases h1 : m = n <;> by_cases h2 : m ∈ l <;> simp [contextsNamed, h1, h2]
  unfold State.boundaries
  rw [all]
  by_cases h : m < 192
  · simp [Config.contexts, h]
  · simp only [List.mem_range, Config.contexts, h, if_false]
    rw [State.channel_out s m (by omega)]; rfl

/-! ## Everything owed -/

theorem State.cycleBoundary_cycleDue (s : State) : s.cycleBoundary.highway.cycleDue = false := by
  unfold State.cycleBoundary
  split
  · simp
  · rename_i h
    exact Bool.eq_false_iff.2 h

/-- Where no cycle boundary is owed, the flag events left are taken, and none is left. -/
theorem State.cycleBoundary_of_not_due {s : State} (h : s.highway.cycleDue = false) :
    s.cycleBoundary = s.takeTransitions := by
  unfold State.cycleBoundary; simp [h]

/-- After `finishTick` the present tick owes nothing. -/
theorem State.finishTick_settled (s : State) : s.finishTick.Settled where
  cycle := by
    unfold State.finishTick
    rw [State.cycleBoundary_cycleDue]
  boundaries n := by
    unfold State.finishTick
    rw [State.cycleBoundary_channel]; exact State.boundaries_boundaryDue _ n
  transitions := by
    unfold State.finishTick
    rw [State.cycleBoundary_of_not_due (by
      rw [State.boundaries_highway, State.cycleBoundary_cycleDue])]
    rfl

theorem State.boundary_of_not_due {s : State} {n : Nat} (h : (s.channel n).boundaryDue = false) : s.boundary n = s := by
  unfold State.boundary; simp [h]

theorem State.boundaryJobs_of_not_due {s : State} {n : Nat} (h : (s.channel n).boundaryDue = false) :
    s.boundaryJobs n = [] := by
  unfold State.boundaryJobs; simp [h]

@[simp] theorem orderJobs_nil (order : List JobRef) : orderJobs order [] = [] := by
  induction order with
  | nil => rfl
  | cons r rs ih => simpa [orderJobs] using ih

/-- An order gives every job once. -/
theorem orderJobs_perm (order : List JobRef) (jobs : List Job) : (orderJobs order jobs).Perm jobs := by
  induction order generalizing jobs with
  | nil => exact .refl _
  | cons r rs ih => exact ((ih _).append_left _).trans (List.filter_append_perm _ jobs)

theorem mem_orderJobs (order : List JobRef) (jobs : List Job) (j : Job) : j ∈ orderJobs order jobs ↔ j ∈ jobs :=
  (orderJobs_perm order jobs).mem_iff

/-- Boundaries that no tick owes do nothing and issue nothing. -/
theorem State.takeBoundaries_of_not_due {s : State} {contexts : List Nat} {order : List JobRef}
    (h : ∀ m ∈ contexts, (s.channel m).boundaryDue = false) : s.takeBoundaries contexts order = s := by
  have states : ∀ l : List Nat, (∀ m ∈ l, (s.channel m).boundaryDue = false) → l.foldl State.boundary s = s := by
    intro l
    induction l with
    | nil => exact fun _ => rfl
    | cons n l ih =>
      intro h
      rw [List.foldl_cons, State.boundary_of_not_due (h n (by simp))]
      exact ih fun m hm => h m (by simp [hm])
  have jobs : contexts.flatMap s.boundaryJobs = [] := by
    rw [List.flatMap_eq_nil_iff]; exact fun m hm => State.boundaryJobs_of_not_due (h m hm)
  unfold State.takeBoundaries
  rw [states contexts h, jobs, orderJobs_nil]; rfl

theorem State.boundaries_of_not_due {s : State} (h : ∀ n, (s.channel n).boundaryDue = false) : s.boundaries = s := by
  unfold State.boundaries
  generalize List.range Config.contexts = l
  induction l with
  | nil => rfl
  | cons n l ih =>
    rw [List.foldl_cons, State.contextBoundary, State.takeBoundaries_of_not_due fun m _ => h m]; exact ih

/-- Where nothing is owed, `finishTick` does nothing. -/
theorem State.Settled.finishTick_eq {s : State} (h : s.Settled) : s.finishTick = s := by
  have h1 : s.cycleBoundary = s := by
    rw [State.cycleBoundary_of_not_due h.cycle, State.takeTransitions_of_none h.transitions]
  unfold State.finishTick
  rw [h1, State.boundaries_of_not_due h.boundaries, h1]

end Sys2Proof.Machine
end

