-- ==== Sys2Proof/Laws/Boundaries.lean ====
section
/-! SUPPORT. Voiding, issue and taking of jobs, and the boundary of an OPEN context, said once. -/

namespace Sys2Proof.Machine

/-- A context that is not FREE has a number below 192. -/
theorem State.lt_of_not_free {s : State} {n : Nat} (h : (s.channel n).state ≠ .free) : n < 192 := by
  by_contra hc
  rw [State.channel_out _ n (by omega)] at h
  exact h rfl

/-- Voided or refused jobs are counted at their context, up to 65535. -/
theorem State.countEngineLate_channel_self (s : State) (n k : Nat) (hn : n < 192)
    (hk : (s.channel n).counters.engineLate ≤ 65535) :
    (s.countEngineLate n k).channel n =
      { s.channel n with
        counters :=
          { (s.channel n).counters with engineLate := min 65535 ((s.channel n).counters.engineLate + k) } } := by
  rw [State.countEngineLate_channel]
  by_cases h : k = 0
  · subst h; simp [hk]
  · simp [hn, h, countUp, Config.counterTop]

/-- Another context is left alone. -/
theorem State.countEngineLate_channel_ne (s : State) (n m k : Nat) (h : m ≠ n) :
    (s.countEngineLate n k).channel m = s.channel m := by
  rw [State.countEngineLate_channel]; simp [h]

/-! ## Issue (R94, R95) -/

/-- Voiding changes the engine by its marks alone. -/
theorem State.voidJobs_engine (s : State) (n : Nat) (p : Job → Bool) :
    (s.voidJobs n p).engine =
      { queue := s.engine.queue.map (Job.voidWhere p),
        current := s.engine.current.map fun r => { r with job := r.job.voidWhere p } } := by
  simp [State.voidJobs, Engine.voidWhere]

/-- With fewer than 32 jobs waiting the new one stands behind them, where an idle engine takes it. -/
theorem State.placeJob_room {s : State} {j : Job} (h : s.engine.queue.length < 32) :
    s.placeJob j = ({ s with engine := { s.engine with queue := s.engine.queue ++ [j] } } : State).takeJob := by
  unfold State.placeJob; simp [Config.jobQueue, h]

/-- With 32 jobs waiting the new one is refused and counted. -/
theorem State.placeJob_full {s : State} {j : Job} (h : 32 ≤ s.engine.queue.length) :
    s.placeJob j = s.countEngineLate j.context 1 := by
  unfold State.placeJob; simp [Config.jobQueue, h]

/-- How many jobs an issue counts as late: those it voids, and its own where it is refused. -/
def State.lateAtIssue (s : State) (j : Job) : Nat :=
  (s.engine.liveCount fun x => x.matches j.ref) + if s.engine.queue.length < 32 then 0 else 1

theorem State.issueJob_channel_ne (s : State) (j : Job) (m : Nat) (h : m ≠ j.context) :
    (s.issueJob j).channel m = s.channel m := by
  unfold State.issueJob State.placeJob State.voidJobs
  split
  · rw [State.takeJob_channel]; exact State.countEngineLate_channel_ne _ _ _ _ h
  · rw [State.countEngineLate_channel_ne _ _ _ _ h, State.countEngineLate_channel_ne _ _ _ _ h]; rfl

/-- An issue counts what it voids and what it refuses, at its own context. -/
theorem State.issueJob_channel_self (s : State) (j : Job) (hn : j.context < 192)
    (hk : (s.channel j.context).counters.engineLate ≤ 65535) :
    (s.issueJob j).channel j.context =
      { s.channel j.context with
        counters :=
          { (s.channel j.context).counters with
            engineLate := min 65535 ((s.channel j.context).counters.engineLate + s.lateAtIssue j) } } := by
  have voided := State.countEngineLate_channel_self
    ({ s with engine := s.engine.voidWhere fun x => x.matches j.ref } : State) j.context
    (s.engine.liveCount fun x => x.matches j.ref) hn hk
  have length : (s.voidJobs j.context fun x => x.matches j.ref).engine.queue.length = s.engine.queue.length := by
    rw [State.voidJobs_engine]; simp
  unfold State.issueJob State.lateAtIssue
  by_cases room : s.engine.queue.length < 32
  · rw [State.placeJob_room (by rw [length]; exact room), State.takeJob_channel, if_pos room]
    exact voided
  · rw [State.placeJob_full (by rw [length]; omega), if_neg room,
      State.countEngineLate_channel_self _ _ _ hn (by unfold State.voidJobs; rw [voided]; simp)]
    unfold State.voidJobs
    rw [voided]
    have sum (c : Channel) (k : Nat) :
        ({ c with
            counters :=
              { c.counters with engineLate := min 65535 (min 65535 (c.counters.engineLate + k) + 1) } } : Channel) =
          { c with counters := { c.counters with engineLate := min 65535 (c.counters.engineLate + (k + 1)) } } := by
      have : min 65535 (min 65535 (c.counters.engineLate + k) + 1) = min 65535 (c.counters.engineLate + (k + 1)) := by
        omega
      rw [this]
    exact sum (s.channel j.context) _

/-- An issue sets ENGINE-LATE exactly when it voids or refuses, and no other flag. -/
theorem State.issueJob_flag (s : State) (j : Job) (k : Nat) :
    (s.issueJob j).status.flags.getLsbD k = (s.status.flags.getLsbD k || (s.lateAtIssue j != 0 && k == 5)) := by
  have length : (s.voidJobs j.context fun x => x.matches j.ref).engine.queue.length = s.engine.queue.length := by
    rw [State.voidJobs_engine]; simp
  have voided : (s.voidJobs j.context fun x => x.matches j.ref).status.flags.getLsbD k =
      (s.status.flags.getLsbD k || ((s.engine.liveCount fun x => x.matches j.ref) != 0 && k == 5)) :=
    State.countEngineLate_flag _ _ _ _
  unfold State.issueJob State.lateAtIssue
  by_cases room : s.engine.queue.length < 32
  · rw [State.placeJob_room (by rw [length]; exact room), State.takeJob_status, if_pos room]
    exact voided
  · rw [State.placeJob_full (by rw [length]; omega), if_neg room, State.countEngineLate_flag, voided]
    cases s.status.flags.getLsbD k <;> cases hk : (k == 5) <;> simp

/-- What an issue leaves of the status: the mask, the device counters and the health-change list. -/
theorem State.issueJob_status (s : State) (j : Job) :
    (s.issueJob j).status.mask = s.status.mask ∧ (s.issueJob j).status.counters = s.status.counters ∧
      (s.issueJob j).status.healthChanged = s.status.healthChanged := by
  unfold State.issueJob State.placeJob State.voidJobs
  split <;> simp

theorem State.issueJob_noticeFollows (s : State) (j : Job) : s.status.NoticeFollows (s.issueJob j).status := by
  have voided : s.status.NoticeFollows (s.voidJobs j.context fun x => x.matches j.ref).status :=
    State.countEngineLate_noticeFollows ({ s with engine := s.engine.voidWhere fun x => x.matches j.ref } : State) _ _
  unfold State.issueJob State.placeJob
  split
  · rw [State.takeJob_status]; exact voided
  · exact voided.trans (State.countEngineLate_noticeFollows _ _ _)

/-! ## Taking (R97) -/

theorem State.takeJob_busy {s : State} {r : Run} (h : s.engine.current = some r) : s.takeJob = s := by
  unfold State.takeJob; rw [h]

theorem State.takeJob_none {s : State} (h : s.engine.current = none) (void : ∀ j ∈ s.engine.queue, j.void = true) :
    s.takeJob = { s with engine := { s.engine with queue := [] } } := by
  have hq : s.engine.queue.dropWhile Job.void = [] := List.dropWhile_eq_nil_iff.2 void
  unfold State.takeJob; rw [h, hq]

theorem State.takeJob_first {s : State} {voids rest : List Job} {j : Job} (h : s.engine.current = none)
    (hq : s.engine.queue = voids ++ j :: rest) (void : ∀ v ∈ voids, v.void = true) (hj : j.void = false) :
    s.takeJob = { s with engine := { s.engine with queue := rest, current := some (s.startRun j) } } := by
  have hd : s.engine.queue.dropWhile Job.void = j :: rest := by
    rw [hq, List.dropWhile_append_of_pos void, List.dropWhile_cons_of_neg (by simp [hj])]
  unfold State.takeJob; rw [h, hd]

/-- An issue to a busy engine, which takes no job: the queue with what it voids, and the new job behind it where there is room. -/
theorem State.issueJob_engine_busy {s : State} {r : Run} (h : s.engine.current = some r) (j : Job) :
    (s.issueJob j).engine =
      { queue :=
          s.engine.queue.map (Job.voidWhere fun x => x.matches j.ref) ++
            if s.engine.queue.length < 32 then [j] else [],
        current := some { r with job := r.job.voidWhere fun x => x.matches j.ref } } := by
  have voided := State.voidJobs_engine s j.context fun x => x.matches j.ref
  have length : (s.voidJobs j.context fun x => x.matches j.ref).engine.queue.length = s.engine.queue.length := by
    rw [voided]; simp
  unfold State.issueJob
  split
  · rw [State.placeJob_room (by omega),
      State.takeJob_busy (r := { r with job := r.job.voidWhere fun x => x.matches j.ref }) (by simp [voided, h])]
    simp [voided, h]
  · rw [State.placeJob_full (by omega)]; simp [voided, h]

/-! ## The playout decision -/

/-- Every decision issues a DECODE job (R76). -/
theorem Playout.decide_kind (p : Playout) (depth limit : Nat) : (p.decide depth limit).work.kind = .decode := by
  have conceal (q : Playout) : q.conceal.2.kind = .decode := by
    unfold Playout.conceal; dsimp only; split
    · split <;> rfl
    · rfl
  have head (q : Playout) (h : Entry) (rest : List Entry) : (q.playHead h rest).work.kind = .decode := by
    unfold Playout.playHead; dsimp only; split <;> first | rfl | exact conceal _
  have play (q : Playout) : q.play.work.kind = .decode := by
    unfold Playout.play
    split
    · exact conceal _
    · split
      · exact head _ _ _
      · exact conceal _
  unfold Playout.decide
  split
  · split <;> first | rfl | exact play _
  · exact play _
  · split <;> first | rfl | exact head _ _ _

/-- The frame a decision's job carries is the last good frame that the decision leaves (R79, R83). -/
theorem Playout.decide_frame (p : Playout) (depth limit : Nat) (f : Frame)
    (h : (p.decide depth limit).work.frame? = some f) : (p.decide depth limit).playout.lastGood = some f := by
  have conceal (q : Playout) (h : q.conceal.2.frame? = some f) : q.conceal.1.lastGood = some f := by
    unfold Playout.conceal at h ⊢
    dsimp only at h ⊢
    split at h
    · split at h
      · rename_i g hg _; simp only [Work.frame?, Option.some.injEq] at h; rw [← h]; exact hg
      · cases h
    · cases h
  have head (q : Playout) (e : Entry) (rest : List Entry) (h : (q.playHead e rest).work.frame? = some f) :
      (q.playHead e rest).playout.lastGood = some f := by
    unfold Playout.playHead at h ⊢
    dsimp only at h ⊢
    split at h
    · simpa [Work.frame?] using h
    · cases h
    · exact conceal _ h
  have play (q : Playout) (h : q.play.work.frame? = some f) : q.play.playout.lastGood = some f := by
    revert h
    unfold Playout.play
    split
    · exact conceal q
    · split
      · exact head _ _ _
      · exact conceal _
  revert h
  unfold Playout.decide
  split
  · split
    · exact play _
    · exact nofun
  · exact play _
  · split
    · exact head _ _ _
    · exact nofun

/-! ## The boundary of an OPEN context -/

/-- A context's boundary, owed and OPEN, is `openBoundary`. -/
theorem State.boundary_open {s : State} {n : Nat} {b : Binding} (due : (s.channel n).boundaryDue = true)
    (state : (s.channel n).state = .opened) (bound : (s.channel n).binding = some b) : s.boundary n = s.openBoundary n b := by
  unfold State.boundary; simp [due, state, bound]

/-- A context's boundary, owed and CLOSING, is `closeBoundary`. -/
theorem State.boundary_closing {s : State} {n : Nat} (due : (s.channel n).boundaryDue = true)
    (state : (s.channel n).state = .closing) : s.boundary n = s.closeBoundary n := by
  unfold State.boundary; simp [due, state]

theorem Channel.boundaryWork_playout (c : Channel) (b : Binding) (hold : Bool) :
    (c.boundaryWork b hold).playout = c.playout := by
  unfold Channel.boundaryWork; dsimp only; split <;> rfl

theorem Channel.boundaryWork_counters (c : Channel) (b : Binding) (hold : Bool) :
    (c.boundaryWork b hold).counters = c.counters := by
  unfold Channel.boundaryWork; dsimp only; split <;> rfl

/-- The context then: settings applied, buffers exchanged, the decision's record, health and counter. -/
theorem State.decidedBoundary_channel_self (s : State) (n : Nat) (b : Binding) (hn : n < 192) :
    (s.decidedBoundary n b).channel n =
      { (s.channel n).boundaryWork b s.stagingHold with
        playout :=
          { ((s.channel n).playout.decide b.depth (s.tables.setting 7)).playout with
            health :=
              (s.channel n).playout.health.record (healthFrames (s.tables.setting 4)) (healthFrames (s.tables.setting 5))
                ((s.channel n).playout.decide b.depth (s.tables.setting 7)).recorded },
        counters :=
          (s.channel n).counters.decided ((s.channel n).playout.decide b.depth (s.tables.setting 7)).counted } := by
  unfold State.decidedBoundary State.decidePlayout
  show (State.setChannel _ n _).channel n = _
  rw [State.channel_setChannel_self _ _ _ hn]
  simp only [State.channel_updateChannel_self _ _ _ hn, State.updateChannel_tables, Channel.boundaryWork_playout,
    Channel.boundaryWork_counters]

theorem State.decidedBoundary_channel_ne (s : State) (n m : Nat) (b : Binding) (h : m ≠ n) :
    (s.decidedBoundary n b).channel m = s.channel m := by
  unfold State.decidedBoundary State.decidePlayout
  show (State.setChannel _ n _).channel m = _
  rw [State.channel_setChannel_ne _ _ _ _ h, State.channel_updateChannel_ne _ _ _ _ h]

/-- The status then: the health transition, if there is one. -/
theorem State.decidedBoundary_status (s : State) (n : Nat) (b : Binding) (hn : n < 192) :
    (s.decidedBoundary n b).status =
      s.status.healthMoved n (s.channel n).playout.health.health
        ((s.channel n).playout.health.record (healthFrames (s.tables.setting 4)) (healthFrames (s.tables.setting 5))
          ((s.channel n).playout.decide b.depth (s.tables.setting 7)).recorded).health := by
  unfold State.decidedBoundary State.decidePlayout
  simp only [State.channel_updateChannel_self _ _ _ hn, State.updateChannel_tables, Channel.boundaryWork_playout]
  rfl

/-- The context after its boundary: the decision's, past the first boundary, with the transfer at position 0. -/
theorem State.openBoundary_channel_self (s : State) (n : Nat) (b : Binding) (hn : n < 192) :
    (s.openBoundary n b).channel n =
      ({ (s.decidedBoundary n b).channel n with firstBoundary := false } : Channel).transfer s.highway.highways
        s.highway.frameCounter :=
  State.channel_updateChannel_self _ _ _ hn

theorem State.openBoundary_channel_ne (s : State) (n m : Nat) (b : Binding) (h : m ≠ n) :
    (s.openBoundary n b).channel m = s.channel m := by
  unfold State.openBoundary
  rw [State.channel_updateChannel_ne _ _ _ _ h, State.decidedBoundary_channel_ne _ _ _ _ h]

@[simp] theorem State.openBoundary_status (s : State) (n : Nat) (b : Binding) :
    (s.openBoundary n b).status = (s.decidedBoundary n b).status := rfl

/-- A context's boundary leaves the other contexts alone (R33). -/
theorem State.boundary_channel_ne (s : State) (n m : Nat) (h : m ≠ n) : (s.boundary n).channel m = s.channel m := by
  unfold State.boundary
  dsimp only
  split
  · split
    · exact State.openBoundary_channel_ne _ _ _ _ h
    · unfold State.closeBoundary
      show ((State.updateChannel _ n _).channel m) = _
      rw [State.channel_updateChannel_ne _ _ _ _ h]
      exact State.countEngineLate_channel_ne _ _ _ _ h
    · exact State.channel_setChannel_ne _ _ _ _ h
  · rfl

/-- The jobs of an OPEN context's boundary. -/
theorem State.boundaryJobs_open {s : State} {n : Nat} {b : Binding} (due : (s.channel n).boundaryDue = true)
    (state : (s.channel n).state = .opened) (bound : (s.channel n).binding = some b) :
    s.boundaryJobs n =
      (let d := (s.decidedBoundary n b).channel n
       d.job n b ((s.channel n).playout.decide b.depth (s.tables.setting 7)).work d.applied.uplinkGain ::
        if (s.channel n).firstBoundary then [] else [d.job n b (.encode (d.encodeWork b)) d.applied.downlinkGain]) := by
  unfold State.boundaryJobs; simp [due, state, bound]

/-- No other boundary issues a job. -/
theorem State.boundaryJobs_ne_nil {s : State} {n : Nat} (h : s.boundaryJobs n ≠ []) :
    (s.channel n).boundaryDue = true ∧ (s.channel n).state = .opened ∧ ∃ b, (s.channel n).binding = some b := by
  unfold State.boundaryJobs at h
  dsimp only at h
  split at h
  · split at h
    · exact ⟨‹_›, ‹_›, _, ‹_›⟩
    · exact absurd rfl h
  · exact absurd rfl h

/-- What a boundary issues does not depend on the other contexts. -/
theorem State.boundaryJobs_congr {s t : State} {n : Nat} (channel : t.channel n = s.channel n)
    (tables : t.tables = s.tables) (hold : t.stagingHold = s.stagingHold) : t.boundaryJobs n = s.boundaryJobs n := by
  by_cases hn : n < 192
  · unfold State.boundaryJobs
    simp only [State.decidedBoundary_channel_self _ _ _ hn, channel, tables, hold]
  · unfold State.boundaryJobs
    rw [channel, s.channel_out n (by omega)]; rfl

/-! ## Boundaries taken together -/

/-- What an issue may count on: a job that is not void, of the present call of an OPEN context, whose frame, if it has one, is
the context's last good frame. -/
structure State.Issuable (s : State) (j : Job) : Prop where
  live : j.void = false
  state : (s.channel j.context).state = .opened
  generation : j.generation = (s.channel j.context).generation
  frame : ∀ f, j.work.frame? = some f → (s.channel j.context).playout.lastGood = some f

theorem State.Issuable.congr {s t : State} {j : Job} (h : s.Issuable j)
    (channel : t.channel j.context = s.channel j.context) : t.Issuable j :=
  ⟨h.live, channel ▸ h.state, channel ▸ h.generation, channel ▸ h.frame⟩

/-- The jobs of a boundary are issuable once it has been taken. -/
theorem State.boundaryJobs_issuable {s : State} {n : Nat} {j : Job} (h : j ∈ s.boundaryJobs n) :
    j.context = n ∧ (s.boundary n).Issuable j := by
  obtain ⟨due, state, b, bound⟩ := State.boundaryJobs_ne_nil (List.ne_nil_of_mem h)
  have hn : n < 192 := State.lt_of_not_free (by rw [state]; decide)
  rw [State.boundaryJobs_open due state bound] at h
  have decided := State.decidedBoundary_channel_self s n b hn
  have transferState (c : Channel) (hw : Vector Highway 4) (k : Nat) :
      (c.transfer hw k).state = c.state ∧ (c.transfer hw k).generation = c.generation ∧
        (c.transfer hw k).playout = c.playout := by
    unfold Channel.transfer; split <;> exact ⟨rfl, rfl, rfl⟩
  have workState (c : Channel) (b : Binding) (hold : Bool) :
      (c.boundaryWork b hold).state = c.state ∧ (c.boundaryWork b hold).generation = c.generation := by
    unfold Channel.boundaryWork; dsimp only; split <;> exact ⟨rfl, rfl⟩
  have after := State.openBoundary_channel_self s n b hn
  rw [State.boundary_open due state bound]
  have hj : j.context = n ∧ j.void = false ∧ j.generation = ((s.decidedBoundary n b).channel n).generation ∧
      ∀ f, j.work.frame? = some f →
        ((s.channel n).playout.decide b.depth (s.tables.setting 7)).work.frame? = some f := by
    rcases List.mem_cons.1 h with rfl | h
    · exact ⟨rfl, rfl, rfl, fun _ h => h⟩
    · split at h
      · cases h
      · rw [List.mem_singleton] at h; subst h
        exact ⟨rfl, rfl, rfl, fun _ h => by cases h⟩
  obtain ⟨hc, hv, hg, hf⟩ := hj
  refine ⟨hc, hv, ?_, ?_, ?_⟩
  · rw [hc, after, (transferState _ _ _).1, decided, (workState _ _ _).1, state]
  · rw [hc, after, (transferState _ _ _).2.1, hg]
  · intro f hw
    rw [hc, after, (transferState _ _ _).2.2, decided]
    exact Playout.decide_frame _ _ _ f (hf f hw)

/-- The jobs of boundaries taken together are issuable once all have been taken. -/
theorem State.foldl_boundary_issuable {contexts : List Nat} (distinct : contexts.Nodup) (s : State) {n : Nat}
    (hn : n ∈ contexts) {j : Job} (hj : j ∈ s.boundaryJobs n) : (contexts.foldl State.boundary s).Issuable j := by
  have rest (l : List Nat) (t : State) (h : n ∉ l) : (l.foldl State.boundary t).channel n = t.channel n := by
    induction l generalizing t with
    | nil => rfl
    | cons m l ih =>
      rw [List.mem_cons, not_or] at h
      rw [List.foldl_cons, ih _ h.2, State.boundary_channel_ne _ _ _ h.1]
  induction contexts generalizing s with
  | nil => cases hn
  | cons m l ih =>
    rw [List.nodup_cons] at distinct
    rw [List.foldl_cons]
    by_cases h : n = m
    · subst h
      obtain ⟨hc, hi⟩ := State.boundaryJobs_issuable hj
      exact hi.congr (by rw [hc]; exact rest l _ distinct.1)
    · refine ih distinct.2 _ ((List.mem_cons.1 hn).resolve_left h) ?_
      rw [State.boundaryJobs_congr (State.boundary_channel_ne _ _ _ h) (State.boundary_tables _ _)
        (State.boundary_stagingHold _ _)]
      exact hj

/-- An issue leaves every job issuable that was. -/
theorem State.Issuable.issueJob {s : State} {j : Job} (h : s.Issuable j) (i : Job) : (s.issueJob i).Issuable j := by
  have kept (m : Nat) : ((s.issueJob i).channel m).state = (s.channel m).state ∧
      ((s.issueJob i).channel m).generation = (s.channel m).generation ∧
      ((s.issueJob i).channel m).playout = (s.channel m).playout := by
    have count (t : State) (n k : Nat) : ((t.countEngineLate n k).channel m).state = (t.channel m).state ∧
        ((t.countEngineLate n k).channel m).generation = (t.channel m).generation ∧
        ((t.countEngineLate n k).channel m).playout = (t.channel m).playout := by
      rw [State.countEngineLate_channel]
      split
      · rename_i hm; rw [hm.1]; exact ⟨rfl, rfl, rfl⟩
      · exact ⟨rfl, rfl, rfl⟩
    unfold State.issueJob State.placeJob State.voidJobs
    split
    · rw [State.takeJob_channel]; exact count _ _ _
    · obtain ⟨a, b, c⟩ := count
        (({ s with engine := s.engine.voidWhere fun x => x.matches i.ref } : State).countEngineLate i.context
          (s.engine.liveCount fun x => x.matches i.ref)) i.context 1
      obtain ⟨d, e, f⟩ := count ({ s with engine := s.engine.voidWhere fun x => x.matches i.ref } : State) i.context
          (s.engine.liveCount fun x => x.matches i.ref)
      exact ⟨a.trans d, b.trans e, c.trans f⟩
  obtain ⟨hs, hg, hp⟩ := kept j.context
  exact ⟨h.live, hs ▸ h.state, hg ▸ h.generation, hp ▸ h.frame⟩

/-- One context's boundary: its work, then its issues in the order of the references. -/
theorem State.contextBoundary_nil (s : State) (n : Nat) :
    s.contextBoundary n [] = (s.boundary n).issueJobs (s.boundaryJobs n) := by
  simp [State.contextBoundary, State.takeBoundaries, contextsNamed, orderJobs]

end Sys2Proof.Machine
end

