-- ==== Sys2Proof/Laws/Control.lean ====
section
/-! SUPPORT. A CONTROL unit whose list holds one command: its full record always fits, so the command's reply is the whole
RESPONSE. -/

namespace Sys2Proof.Machine

theorem TableId.entries_le (id : TableId) (k : Nat) (h : k ≤ id.size) : k * id.entryLength ≤ 192 := by
  cases id <;> simp only [TableId.size, TableId.entryLength] at * <;> omega

theorem readCount_le (id : TableId) (start count : Nat) : readCount id start count ≤ id.size := by
  unfold readCount; omega

theorem traceCount_le {offset count : Byte} {n : Nat} (h : traceCount? offset count = some n) : n ≤ 48 := by
  unfold traceCount? at h
  split at h
  · cases h
  · cases h; simp only [Config.traceChunk]; omega

/-- No full record passes 195 bytes (R164, R171). -/
theorem Command.fullRecord_le (c : Command) (args : List Byte) (s : State) : c.fullRecord args s ≤ 195 := by
  unfold Command.fullRecord
  split
  case h_6 =>
    split
    · split
      · rename_i id i n _
        have := TableId.entries_le id _ (readCount_le id i n)
        omega
      · omega
    · omega
  case h_7 =>
    split
    · rename_i count _
      have := TableId.entries_le s.management.cursor.table _
        (readCount_le s.management.cursor.table s.management.cursor.index count.toNat)
      omega
    · omega
  case h_8 =>
    split
    · split
      · rename_i h
        have := traceCount_le h
        omega
      · omega
    · omega
  all_goals omega

@[simp] theorem Command.ofCode?_code (c : Command) : Command.ofCode? c.code = some c := by
  cases c <;> decide

/-- A code byte names a command exactly when it is that command's code. -/
theorem Command.ofCode?_eq_some {b : Byte} {c : Command} : Command.ofCode? b = some c ↔ c.code = b := by
  constructor
  · intro h
    have := List.find?_some h
    simpa using this
  · rintro rfl; simp

/-- What one command of a list answers is all its CONTROL unit does before the RESPONSE (R161, R164). -/
theorem State.controlOne_eq (s : State) (c : Command) (env : Envelope) (args : List Byte) (h : args.length ≤ 252) :
    s.controlOne c env args =
      (c.run true args s).state.respond env.seq
        (env.tag :: recordBytes c.code (c.run true args s).result (c.run true args s).data) (c.run true args s).restart := by
  have hlen : (byte args.length).toNat = args.length := by
    simp only [byte, BitVec.toNat_ofNat]; omega
  have hfull : fullRecordOf c.code args s ≤ 195 := by
    unfold fullRecordOf; rw [Command.ofCode?_code]; exact Command.fullRecord_le c args s
  unfold State.controlOne State.control
  simp only [List.length_cons, runCommands, hlen, List.take_length, List.drop_length]
  rw [if_neg (by omega), if_neg (by simp only [List.length_nil, Config.responseRoom]; omega)]
  simp [ListRun.command]

/-- The same where the command is no accepted RESTART. -/
theorem State.controlOne_answer (s : State) (c : Command) (env : Envelope) (args : List Byte) (h : args.length ≤ 252)
    (hr : (c.run true args s).restart = false) :
    s.controlOne c env args =
      (c.run true args s).state.answer env c (c.run true args s).result (c.run true args s).data := by
  rw [State.controlOne_eq s c env args h, hr]; rfl

/-! ## The outcome of each reply -/

@[simp] theorem Reply.ok_state (s : State) (data : List Byte) : (Reply.ok s data).state = s := rfl
@[simp] theorem Reply.ok_result (s : State) (data : List Byte) : (Reply.ok s data).result = .ok := rfl
@[simp] theorem Reply.ok_data (s : State) (data : List Byte) : (Reply.ok s data).data = data := rfl
@[simp] theorem Reply.ok_restart (s : State) (data : List Byte) : (Reply.ok s data).restart = false := rfl
@[simp] theorem Reply.refuse_state (s : State) (r : Result) : (Reply.refuse s r).state = s := rfl
@[simp] theorem Reply.refuse_result (s : State) (r : Result) : (Reply.refuse s r).result = r := rfl
@[simp] theorem Reply.refuse_data (s : State) (r : Result) : (Reply.refuse s r).data = [] := rfl
@[simp] theorem Reply.refuse_restart (s : State) (r : Result) : (Reply.refuse s r).restart = false := rfl

/-- A row of the catalogue, its reply known: an accepted command answers its data. -/
theorem State.controlOne_of_ok {s u : State} {c : Command} {env : Envelope} {args data : List Byte}
    (h : args.length ≤ 252) (hc : c.run true args s = .ok u data) :
    s.controlOne c env args = u.answer env c .ok data := by
  rw [State.controlOne_answer s c env args h (by rw [hc]; rfl), hc]; rfl

/-- A refused command changes nothing and answers no data. -/
theorem State.controlOne_of_refuse {s : State} {c : Command} {env : Envelope} {args : List Byte} {r : Result}
    (h : args.length ≤ 252) (hc : c.run true args s = .refuse s r) :
    s.controlOne c env args = s.answer env c r [] := by
  rw [State.controlOne_answer s c env args h (by rw [hc]; rfl), hc]; rfl

/-! ## The walk of a list -/

@[simp] theorem runCommands_nil (turns position : Nat) (r : ListRun) : runCommands turns position [] r = r := by
  cases turns <;> rfl

/-- More turns than bytes make no difference. -/
theorem runCommands_turns (turns more position : Nat) (bytes : List Byte) (r : ListRun) (h : bytes.length ≤ turns) :
    runCommands (turns + more) position bytes r = runCommands turns position bytes r := by
  induction turns generalizing position bytes r with
  | zero =>
    have : bytes = [] := List.length_eq_zero_iff.1 (by omega)
    subst this; simp
  | succ turns ih =>
    rw [Nat.add_right_comm]
    match bytes, h with
    | [], _ => rfl
    | [_], _ => rfl
    | code :: len :: rest, h =>
      simp only [List.length_cons] at h
      simp only [runCommands]
      split
      · rfl
      · split
        · rfl
        · exact ih _ _ _ (by simp only [List.length_drop]; omega)

end Sys2Proof.Machine
end

