-- ==== Sys2Proof/Laws/Formats.lean ====
section
/-! SUPPORT. Layouts written out: two-byte fields, the header of a unit the part answers or reports with, and how many contexts
a binding is taken by; the bits of a speech payload and of a highway frame. -/

namespace Sys2Proof.Machine

/-- A two-byte field, most significant byte first. -/
theorem natBytes16_eq (k : Nat) : natBytes16 k = [BitVec.ofNat 8 (k / 256), BitVec.ofNat 8 k] := by
  unfold natBytes16 bytes16
  congr 1
  · apply BitVec.eq_of_toNat_eq; simp [BitVec.extractLsb', Nat.shiftRight_eq_div_pow]; omega
  · congr 1; apply BitVec.eq_of_toNat_eq; simp [BitVec.extractLsb']

/-- A 16-bit word as two bytes. -/
theorem bytes16_eq (w : BitVec 16) : bytes16 w = [BitVec.ofNat 8 (w.toNat / 256), BitVec.ofNat 8 w.toNat] := by
  have := natBytes16_eq w.toNat
  rwa [natBytes16, BitVec.ofNat_toNat, BitVec.setWidth_eq] at this

/-- A sample in two's complement. -/
theorem intBytes16_eq (x : Int) : intBytes16 x = [BitVec.ofInt 8 (x / 256), BitVec.ofInt 8 x] := by
  unfold intBytes16
  rw [bytes16_eq, BitVec.toNat_ofInt]
  congr 1
  · apply BitVec.eq_of_toNat_eq; simp [BitVec.toNat_ofInt]; omega
  · congr 1; apply BitVec.eq_of_toNat_eq; simp [BitVec.toNat_ofInt]; omega

/-- Two bytes read as one number. -/
theorem word16_toNat (hi lo : Byte) : (word16 hi lo).toNat = 256 * hi.toNat + lo.toNat := by
  unfold word16
  rw [BitVec.toNat_append, ← Nat.shiftLeft_add_eq_or_of_lt lo.isLt, Nat.shiftLeft_eq]; omega

theorem word16_bytes (w : BitVec 16) : word16 (BitVec.ofNat 8 (w.toNat / 256)) (BitVec.ofNat 8 w.toNat) = w := by
  apply BitVec.eq_of_toNat_eq
  rw [word16_toNat]; simp; omega

/-- The management label as it is sent (R156). -/
theorem managementLabel_bytes (straps : Straps) :
    bytes16 (managementLabelOf straps) = [0xFF, BitVec.ofNat 8 (0xF0 + straps.mgsel.toNat)] := by
  unfold managementLabelOf
  generalize straps.mgsel = m
  revert m; decide

/-- The first six header bytes of a unit under the management label, its mode, request and quality 0. -/
theorem header_front_management (s : State) (kind : BitVec 4) (seq len : Byte) :
    Header.front { label := s.managementLabel, kind := kind, mode := 0, seq := seq, request := 0, quality := 0, length := len } =
      [0xFF, BitVec.ofNat 8 (0xF0 + s.management.straps.mgsel.toNat), kind ++ (0 : BitVec 4), seq, 0x00, len] := by
  have zero : (0 : BitVec 4) ++ (0 : BitVec 4) = (0 : Byte) := by decide
  unfold Header.front State.managementLabel
  rw [managementLabel_bytes, zero]; rfl

/-- The RESPONSE unit, byte by byte (R167). -/
theorem State.responseUnit_eq (s : State) (seq : Byte) (payload front : List Byte)
    (hf : front = [0xFF, BitVec.ofNat 8 (0xF0 + s.management.straps.mgsel.toNat), 0x40, seq, 0x00,
      BitVec.ofNat 8 payload.length]) :
    s.responseUnit seq payload = front ++ [crc8 front] ++ payload := by
  have kind : UnitKind.response.code ++ (0 : BitVec 4) = (0x40 : Byte) := by decide
  unfold State.responseUnit buildUnit Header.unit
  rw [header_front_management, kind, hf]; rfl

/-- The NOTICE unit, byte by byte (R176). -/
theorem State.noticeUnit_eq (s : State) (front : List Byte)
    (hf : front = [0xFF, BitVec.ofNat 8 (0xF0 + s.management.straps.mgsel.toNat), 0x50, s.highway.cycleCounter, 0x00,
      BitVec.ofNat 8 s.noticePayload.length]) :
    s.noticeUnit = front ++ [crc8 front] ++ s.noticePayload := by
  have kind : UnitKind.notice.code ++ (0 : BitVec 4) = (0x50 : Byte) := by decide
  unfold State.noticeUnit buildUnit Header.unit
  rw [header_front_management, kind, hf]; rfl

/-- The 192 contexts in the order of their numbers. -/
theorem State.channels_toList (s : State) : s.channels.toArray.toList = (List.range 192).map s.channel := by
  apply List.ext_getElem
  · simp
  · intro i h1 h2
    have hi : i < 192 := by simpa using h1
    simp [State.channel_eq_get s i hi]

theorem State.mem_channels (s : State) (c : Channel) :
    c ∈ s.channels.toArray.toList ↔ ∃ n, n < 192 ∧ s.channel n = c := by
  simp [s.channels_toList]

/-- The contexts a binding condition holds of, counted by their numbers. -/
theorem State.countBound_eq (s : State) (p : Binding → Bool) :
    s.countBound p =
      ((List.range 192).filter fun n => (s.channel n).state != .free && (s.channel n).binding.any p).length := by
  unfold State.countBound
  rw [s.channels_toList, List.countP_map, List.countP_eq_length_filter]; rfl

/-- Some context in use meets a binding condition. -/
theorem State.countBound_pos (s : State) (p : Binding → Bool) :
    s.countBound p ≠ 0 ↔ ∃ n b, (s.channel n).state ≠ .free ∧ (s.channel n).binding = some b ∧ p b = true := by
  rw [State.countBound_eq, ← Nat.pos_iff_ne_zero, List.length_pos_iff_exists_mem]
  constructor
  · rintro ⟨n, hn⟩
    simp only [List.mem_filter, List.mem_range, Bool.and_eq_true, bne_iff_ne, Option.any_eq_true] at hn
    obtain ⟨_, h1, b, h2, h3⟩ := hn
    exact ⟨n, b, h1, h2, h3⟩
  · rintro ⟨n, b, h1, h2, h3⟩
    refine ⟨n, ?_⟩
    simp only [List.mem_filter, List.mem_range, Bool.and_eq_true, bne_iff_ne, Option.any_eq_true]
    refine ⟨?_, h1, b, h2, h3⟩
    by_contra hn
    rw [State.channel_out s n (by omega)] at h2; cases h2

/-! ## Bit strings and the speech payload (R184) -/

theorem natBits_getElem? (w n k : Nat) : (natBits w n)[k]? = if k < w then some (n.testBit (w - 1 - k)) else none := by
  induction w generalizing k with
  | zero => rfl
  | succ w ih =>
    cases k with
    | zero => simp [natBits]
    | succ k =>
      rw [natBits, List.getElem?_cons_succ, ih]
      simp only [Nat.add_lt_add_iff_right, Nat.add_sub_cancel]
      rw [show w - 1 - k = w - (k + 1) by omega]

theorem natBits_length (w n : Nat) : (natBits w n).length = w := by
  induction w with
  | zero => rfl
  | succ w ih => simp [natBits, ih]

/-- Bit `k` of a run of bytes is bit `k % 8` of byte `k / 8`, both counted from the most significant. -/
theorem bytesBits_getElem? (bytes : List Byte) (k : Nat) :
    (bytesBits bytes)[k]? = bytes[k / 8]?.map fun b => b.getMsbD (k % 8) := by
  induction bytes generalizing k with
  | nil => simp [bytesBits]
  | cons b bs ih =>
    have cons : bytesBits (b :: bs) = natBits 8 b.toNat ++ bytesBits bs := rfl
    rw [cons]
    by_cases h : k < 8
    · rw [List.getElem?_append_left (by rw [natBits_length]; exact h), natBits_getElem?, if_pos h,
        Nat.div_eq_of_lt h, Nat.mod_eq_of_lt h]
      simp [BitVec.getMsbD, BitVec.getLsbD, h]
    · rw [List.getElem?_append_right (by rw [natBits_length]; omega), natBits_length, ih]
      rw [show k / 8 = (k - 8) / 8 + 1 by omega, List.getElem?_cons_succ, show (k - 8) % 8 = k % 8 by omega]

/-- The step indices read, one by one. -/
theorem readSteps_getElem? (count : Nat) (bits : List Bool) (i : Nat) (h : i < count) :
    (readSteps count bits)[i]? = some (clampStep (bitsNat ((bits.drop (6 * i)).take 6))) := by
  induction count generalizing bits i with
  | zero => omega
  | succ count ih =>
    cases i with
    | zero => simp [readSteps]
    | succ i =>
      rw [readSteps, List.getElem?_cons_succ, ih _ _ (by omega), List.drop_drop, show 6 + 6 * i = 6 * (i + 1) by omega]

/-- The codes read, one by one. -/
theorem readCodes_getElem? (width count : Nat) (bits : List Bool) (j : Nat) (h : j < count) :
    (readCodes width count bits)[j]? =
      some
        { neg := (bits.drop (width * j)).headD false,
          mag := bitsNat (((bits.drop (width * j)).take width).drop 1) } := by
  induction count generalizing bits j with
  | zero => omega
  | succ count ih =>
    cases j with
    | zero => simp [readCodes]
    | succ j =>
      rw [readCodes, List.getElem?_cons_succ, ih _ _ (by omega), List.drop_drop,
        show width + width * j = width * (j + 1) by rw [Nat.mul_succ]; omega]
/-! ## Highway frames (R23) -/

/-- Bit `k` of a timeslot's code is bit `8t + k` of the frame, both counted from the most significant. -/
theorem timeslotCode_getMsbD (frame : BitVec 512) (t : Fin 64) (k : Nat) (h : k < 8) :
    (timeslotCode frame t).getMsbD k = frame.getMsbD (8 * t.val + k) := by
  have ht := t.isLt
  have h8 : 8 * t.val + k < 512 := by omega
  unfold timeslotCode
  rw [BitVec.getMsbD, BitVec.getMsbD, BitVec.getLsbD_extractLsb']
  simp only [h, h8, decide_true, Bool.true_and]
  rw [show decide (8 - 1 - k < 8) = true from decide_eq_true (by omega), Bool.true_and]
  congr 1; omega

/-- A byte whose bits stand in a timeslot of a frame is that timeslot's code. -/
theorem timeslotCode_eq (frame : BitVec 512) (t : Fin 64) (code : Byte)
    (h : ∀ k, k < 8 → code.getMsbD k = frame.getMsbD (8 * t.val + k)) : timeslotCode frame t = code := by
  apply BitVec.eq_of_getMsbD_eq
  intro k hk
  rw [timeslotCode_getMsbD frame t k hk, h k hk]

theorem State.transmitFrame_get (s : State) (highway : Fin 4) (i : Fin 512) :
    (s.transmitFrame highway)[i] = s.transmitBit highway i := by
  simp [State.transmitFrame]

theorem State.transmitBit_eq (s : State) (highway : Fin 4) (slot : Fin 64) (k : Nat) (i : Fin 512) (hk : k < 8)
    (hi : i.val = 8 * slot.val + k) :
    s.transmitBit highway i = (s.drivenIn highway slot).map fun code => code.getMsbD k := by
  have hs : Fin.ofNat 64 (i.val / 8) = slot := by
    apply Fin.ext; simp; omega
  have hm : i.val % 8 = k := by omega
  rw [State.transmitBit, hs, hm]

/-- A timeslot that no context is bound to is not driven. -/
theorem State.drivenIn_unbound (s : State) (highway : Fin 4) (slot : Fin 64)
    (h : ∀ n b, (s.channel n).binding = some b → b.highway = highway → b.timeslot ≠ slot) :
    s.drivenIn highway slot = none := by
  unfold State.drivenIn
  rw [List.findSome?_eq_none_iff]
  intro c hc
  obtain ⟨n, hn, rfl⟩ := (s.mem_channels c).1 hc
  rw [if_neg]
  simp only [Option.any_eq_true, decide_eq_true_eq]
  rintro ⟨b, hb, hw, ht⟩
  exact h n b hb hw ht

/-- A timeslot is driven with the code of the one context bound to it. -/
theorem State.drivenIn_bound (s : State) (law : BindingLaw s) (n : Nat) (b : Binding)
    (hb : (s.channel n).binding = some b) : s.drivenIn b.highway b.timeslot = (s.channel n).driven := by
  have hn : n < 192 := by
    by_contra h
    rw [s.channel_out n (by omega)] at hb; cases hb
  have here : (s.channel n).binding.any (fun d => d.highway = b.highway ∧ d.timeslot = b.timeslot) = true := by
    simp [hb]
  have only (c : Channel) (hc : c ∈ s.channels.toArray.toList)
      (hd : c.binding.any (fun d => d.highway = b.highway ∧ d.timeslot = b.timeslot) = true) : c = s.channel n := by
    obtain ⟨m, hm, rfl⟩ := (s.mem_channels c).1 hc
    simp only [Option.any_eq_true, decide_eq_true_eq] at hd
    obtain ⟨d, h, hw, ht⟩ := hd
    rw [law.timeslot m n d b h hb hw ht]
  unfold State.drivenIn
  cases hv : (s.channel n).driven with
  | none =>
    rw [List.findSome?_eq_none_iff]
    intro c hc
    split
    · rename_i hd; rw [only c hc hd, hv]
    · rfl
  | some code =>
    cases hf : s.channels.toArray.toList.findSome? (fun c =>
        if c.binding.any (fun d => d.highway = b.highway ∧ d.timeslot = b.timeslot) then c.driven else none) with
    | some x =>
      obtain ⟨c, hc, hx⟩ := List.exists_of_findSome?_eq_some hf
      split at hx
      · rename_i hd; rw [only c hc hd, hv] at hx; exact hx.symm
      · cases hx
    | none =>
      rw [List.findSome?_eq_none_iff] at hf
      have := hf (s.channel n) ((s.mem_channels _).2 ⟨n, hn, rfl⟩)
      rw [if_pos here, hv] at this; cases this

end Sys2Proof.Machine
end

