-- ==== Sys2Proof/Laws/Keeps.lean ====
section
/-! SUPPORT. One case analysis of `exec` for all invariants: a property that every shared operation keeps is kept by every
command. -/

namespace Sys2Proof.Machine

/-- What an invariant has to survive: the operations the commands are made of. -/
structure Keeps (P : State → Prop) : Prop where
  pending : ∀ s q, P s → P { s with pending := q }
  beginReset : ∀ s, P s → P s.beginReset
  resetPin : ∀ s b, P s → P { s with management := { s.management with resetN := b } }
  endReset : ∀ s pins, P s → P (s.endReset pins)
  advance : ∀ s inputs, s.Settled → P s → P (s.advance inputs)
  transitions : ∀ s, P s → P s.takeTransitions
  cycleAdvance : ∀ s, P s →
    P { s with highway := { s.highway with cycleDue := false, cycleCounter := s.highway.cycleCounter + 1 } }
  noticeTaken : ∀ s, P s → P { s with status := { s.status with noticeWanted := false, healthChanged := [] } }
  openBoundary : ∀ s n b, (s.channel n).state = .opened → (s.channel n).binding = some b → P s → P (s.openBoundary n b)
  closeBoundary : ∀ s n, (s.channel n).state = .closing → P s → P (s.closeBoundary n)
  noBoundary : ∀ s n, P s → P (s.setChannel n { s.channel n with boundaryDue := false })
  issueJob : ∀ s j, s.Issuable j → P s → P (s.issueJob j)
  count : ∀ s f, P s → P (s.count f)
  endReception : ∀ s port, P s → P (s.endReception port)
  offerAToB : ∀ s bytes, s.running → P s → P (s.offerAToB bytes)
  offerBToA : ∀ s bytes, s.running → P s → P (s.offerBToA bytes)
  offerNotice : ∀ s bytes, s.running → P s → P (s.offerNotice bytes)
  respond : ∀ s seq payload restart, s.running → P s → P (s.respond seq payload restart)
  arrive : ∀ s n seq body request quality, (s.channel n).state = .opened → P s →
    P (s.updateChannel n fun c => c.arrive seq body request quality)
  holdPin : ∀ s port, P s → P (s.withHold port true)
  holdPinReset : ∀ s port, s.management.device = .reset → P s → P (s.withHold port false)
  holdReleased : ∀ s port, s.running → P s → P ((s.withHold port false).select port)
  completeA : ∀ s sent, s.running → s.links.portA.sending = some sent → P s → P (s.completeA sent)
  completeB : ∀ s, s.running → P s → P s.completeB
  completeDecode : ∀ s, s.running → P s → P s.completeDecode
  completeEncode : ∀ s, s.running → P s → P s.completeEncode
  endVoid : ∀ s, s.running → P s → P s.endVoid
  standby : ∀ s, s.running → (s.management.device = .operating → s.allFree = true) → P s → P (s.withDevice .standby)
  operating : ∀ s, s.running → P s → P (s.withDevice .operating)
  stagingHold : ∀ s b, P s → P { s with stagingHold := b }
  opened : ∀ s (a : OpenArgs), s.openRefusal a = none → P s → P (s.updateChannel a.context fun c => c.opened a)
  modified : ∀ s n (p : PendingRecord), n < 192 → (s.channel n).state = .opened →
    (∀ set, p.allowed = some set → set.nonempty = true) → P s →
    P (s.updateChannel n fun c => { c with waiting := c.waiting.merge p })
  closed : ∀ s n, (s.channel n).state = .opened → P s → P (s.updateChannel n fun c => { c with state := .closing })
  reported : ∀ s n, P s →
    P (s.updateChannel n fun c =>
      { c with counters := ContextCounters.zero, playout := { c.playout with minQuality := 15 } })
  writeEntry : ∀ s id i bytes t, s.writeEntry id i bytes = some t → P s → P t
  cursor : ∀ s id i, i ≤ id.size ∨ (id = s.management.cursor.table ∧ i = s.management.cursor.index) → P s →
    P (s.withCursor id i)
  status : ∀ s flags mask, P s → P { s with status := { s.status with flags := flags, mask := mask } }
  traceArmed : ∀ s n p, (s.channel n).state = .opened → P s →
    P { s with trace := .armed { context := n, point := p, generation := (s.channel n).generation } }

/-! ## The list of a CONTROL unit -/

variable {P : State → Prop}

/-- What a command leaves: the property, and a device state other than RESET. -/
def Reply.Kept (P : State → Prop) (r : Reply) : Prop :=
  P r.state ∧ r.state.running

theorem Reply.kept_refuse {s : State} (result : Result) (h : P s) (hr : s.running) : (Reply.refuse s result).Kept P :=
  ⟨h, hr⟩

theorem Reply.kept_ok {s : State} (data : List Byte) (h : P s) (hr : s.running) : (Reply.ok s data).Kept P :=
  ⟨h, hr⟩

theorem State.writeEntry_management {s t : State} {id : TableId} {i : Nat} {bytes : List Byte}
    (h : s.writeEntry id i bytes = some t) : t.management = s.management := by
  cases id <;> simp only [State.writeEntry, Option.map_eq_some_iff, Option.some.injEq] at h
  · subst h; rfl
  · subst h; rfl
  · subst h; rfl
  · obtain ⟨w, -, rfl⟩ := h; rfl
  · subst h; rfl

/-- A run of writes leaves the management record, and rests where it began or within the table. -/
theorem State.writeEntries_keeps (k : Keeps P) (id : TableId) (entries : List (List Byte)) (i : Nat) (s : State) (h : P s) :
    P (State.writeEntries id entries i s).state ∧
      (State.writeEntries id entries i s).state.management = s.management ∧
      ((State.writeEntries id entries i s).index ≤ id.size ∨ (State.writeEntries id entries i s).index = i) := by
  induction entries generalizing i s with
  | nil => exact ⟨h, rfl, .inr rfl⟩
  | cons e es ih =>
    unfold State.writeEntries
    split
    · exact ⟨h, rfl, .inr rfl⟩
    · split
      · exact ⟨h, rfl, .inr rfl⟩
      · rename_i hi t ht
        obtain ⟨h1, h2, h3⟩ := ih (i + 1) t (k.writeEntry _ _ _ _ _ ht h)
        exact ⟨h1, h2.trans (State.writeEntry_management ht), .inl (by omega)⟩

theorem State.writeFrom_kept (k : Keeps P) {s : State} {id : TableId} {start : Nat} (entries : List (List Byte))
    (hs : start ≤ id.size ∨ (id = s.management.cursor.table ∧ start = s.management.cursor.index))
    (h : P s) (hr : s.running) : (s.writeFrom id start entries).Kept P := by
  unfold State.writeFrom
  split
  · exact Reply.kept_refuse _ h hr
  · obtain ⟨h1, h2, h3⟩ := State.writeEntries_keeps k id entries start s h
    refine ⟨k.cursor _ _ _ ?_ h1, ?_⟩
    · rw [h2]
      rcases h3 with h3 | h3
      · exact .inl h3
      · rw [h3]; exact hs
    · simp only [State.running, State.withCursor, h2]; exact hr

theorem State.readFrom_kept (k : Keeps P) {s : State} {id : TableId} {start : Nat} (count : Nat)
    (hs : start ≤ id.size ∨ (id = s.management.cursor.table ∧ start = s.management.cursor.index))
    (h : P s) (hr : s.running) : (s.readFrom id start count).Kept P := by
  refine ⟨k.cursor _ _ _ ?_ h, hr⟩
  rcases hs with hs | ⟨h1, h2⟩
  · left; unfold readCount; omega
  · by_cases hl : start ≤ id.size
    · left; unfold readCount; omega
    · right; refine ⟨h1, ?_⟩; unfold readCount; omega

theorem Command.run_kept (k : Keeps P) (c : Command) (last : Bool) (args : List Byte) (s : State) (h : P s) (hr : s.running) :
    (c.run last args s).Kept P := by
  have hn : ∀ r, (Reply.refuse s r).Kept P := fun r => Reply.kept_refuse r h hr
  cases c <;> simp only [Command.run]
  · unfold cmdIdentify; split
    · exact Reply.kept_ok _ h hr
    · exact hn _
  · unfold cmdSetState
    split
    · split
      · split
        · exact hn _
        · rename_i hc
          refine ⟨k.standby _ hr (fun ho => ?_) h, by simp [Reply.ok, State.running, State.withDevice]⟩
          by_contra hf
          exact hc ⟨ho, hf⟩
      · rename_i b d hd hne
        have : d = .operating := by
          unfold DeviceState.ofByte? at hne
          split at hne
          · simp_all
          · split at hne <;> simp_all
        subst this
        exact ⟨k.operating _ hr h, by simp [Reply.ok, State.running, State.withDevice]⟩
      · exact hn _
    · exact hn _
  · unfold cmdHold; split
    · exact ⟨k.stagingHold _ _ h, hr⟩
    · exact hn _
  · unfold cmdRelease; split
    · exact ⟨k.stagingHold _ _ h, hr⟩
    · exact hn _
  · unfold cmdRestart
    repeat' split
    all_goals first | exact hn _ | exact ⟨h, hr⟩
  · unfold cmdOpen
    split
    · exact hn _
    · split
      · exact hn _
      · rename_i a _ ha
        exact ⟨k.opened _ _ ha h, hr⟩
  · unfold cmdModify
    split
    · exact hn _
    · split
      · exact hn _
      · split
        · exact hn _
        · split
          · exact hn _
          · rename_i m _ h1 h2 h3
            refine ⟨k.modified _ _ _ (by omega) (by simpa using h2) ?_ h, hr⟩
            intro set hs
            simpa [hs] using h3
  · unfold cmdClose
    split
    · split
      · exact hn _
      · split
        · exact hn _
        · rename_i ho
          exact ⟨k.closed _ _ ho h, hr⟩
        · exact ⟨h, hr⟩
    · exact hn _
  · unfold cmdContextReport
    split
    · split
      · exact hn _
      · split
        · exact hn _
        · exact ⟨k.reported _ _ h, hr⟩
    · exact hn _
  · unfold cmdWriteTable
    split
    · split
      · exact hn _
      · split
        · exact hn _
        · split
          · exact hn _
          · exact State.writeFrom_kept k _ (.inl (by omega)) h hr
    · exact hn _
  · unfold cmdWriteNext
    split
    · exact hn _
    · exact State.writeFrom_kept k _ (.inr ⟨rfl, rfl⟩) h hr
  · unfold cmdReadTable
    split
    · split
      · exact hn _
      · rename_i ha
        refine State.readFrom_kept k _ (.inl ?_) h hr
        unfold readTableArgs? at ha
        split at ha
        · cases ha
        · split at ha
          · rename_i hh; cases ha; exact Nat.le_of_lt hh.1
          · cases ha
    · exact hn _
  · unfold cmdReadNext
    split
    · split
      · exact hn _
      · exact State.readFrom_kept k _ (.inr ⟨rfl, rfl⟩) h hr
    · exact hn _
  · unfold cmdReadStatus
    split
    · exact ⟨k.count s (fun _ => DeviceCounters.zero) h, hr⟩
    · exact hn _
  · unfold cmdClearFlags
    split
    · exact ⟨k.status _ _ s.status.mask h, hr⟩
    · exact hn _
  · unfold cmdSetNoticeMask
    split
    · exact ⟨k.status _ s.status.flags _ h, hr⟩
    · exact hn _
  · unfold cmdTraceArm
    split
    · split
      · exact hn _
      · split
        · exact hn _
        · split
          · exact hn _
          · rename_i ho
            exact ⟨k.traceArmed _ _ _ (by simpa using ho) h, hr⟩
    · exact hn _
  · unfold cmdTraceRead
    split
    · split
      · exact hn _
      · split
        · exact ⟨h, hr⟩
        · exact hn _
    · exact hn _

theorem runCommands_kept (k : Keeps P) (turns position : Nat) (bytes : List Byte) (r : ListRun)
    (h : P r.state) (hr : r.state.running) :
    P (runCommands turns position bytes r).state ∧ (runCommands turns position bytes r).state.running := by
  induction turns generalizing position bytes r with
  | zero => exact ⟨h, hr⟩
  | succ turns ih =>
    unfold runCommands
    split
    · exact ⟨h, hr⟩
    · exact ⟨k.count r.state (fun c => { c with malformed := countUp c.malformed 1 }) h, hr⟩
    · split
      · exact ⟨k.count r.state (fun c => { c with malformed := countUp c.malformed 1 }) h, hr⟩
      · split
        · exact ⟨h, hr⟩
        · refine ih _ _ _ ?_ ?_ <;> unfold ListRun.command <;> split
          · exact h
          · exact (Command.run_kept k _ _ _ _ h hr).1
          · exact hr
          · exact (Command.run_kept k _ _ _ _ h hr).2

theorem State.control_kept (k : Keeps P) (s : State) (seq : Byte) (payload : List Byte) (h : P s) (hr : s.running) :
    P (s.control seq payload) := by
  unfold State.control
  split
  · exact k.count _ _ h
  · have := runCommands_kept k (List.length ‹List Byte›) 1 ‹List Byte› { state := s, records := [], restart := false } h hr
    exact k.respond _ _ _ _ this.2 this.1

/-! ## The other commands -/

theorem State.issueJobs_kept (k : Keeps P) (jobs : List Job) (s : State) (hj : ∀ j ∈ jobs, s.Issuable j) (h : P s) :
    P (s.issueJobs jobs) := by
  unfold State.issueJobs
  induction jobs generalizing s with
  | nil => exact h
  | cons j js ih =>
    exact ih _ (fun i hi => (hj i (List.mem_cons_of_mem _ hi)).issueJob j) (k.issueJob _ _ (hj j (by simp)) h)

theorem State.boundary_kept (k : Keeps P) (s : State) (n : Nat) (h : P s) : P (s.boundary n) := by
  unfold State.boundary
  simp only
  split
  · split
    · exact k.openBoundary _ _ _ ‹_› ‹_› h
    · exact k.closeBoundary _ _ ‹_› h
    · exact k.noBoundary _ _ h
  · exact h

theorem State.contextBoundary_kept (k : Keeps P) (s : State) (n : Nat) (order : List JobRef) (h : P s) :
    P (s.contextBoundary n order) := by
  have works (l : List Nat) (s : State) (h : P s) : P (l.foldl State.boundary s) := by
    induction l generalizing s with
    | nil => exact h
    | cons m l ih => exact ih _ (State.boundary_kept k _ m h)
  unfold State.contextBoundary State.takeBoundaries
  refine State.issueJobs_kept k _ _ (fun j hj => ?_) (works _ _ h)
  obtain ⟨m, hm, hjm⟩ := List.mem_flatMap.1 ((mem_orderJobs _ _ _).1 hj)
  exact State.foldl_boundary_issuable ((contextsNamed_ascending n order).imp Nat.ne_of_lt) s hm hjm

theorem State.boundaries_kept (k : Keeps P) (s : State) (h : P s) : P s.boundaries := by
  unfold State.boundaries
  generalize List.range Config.contexts = l
  induction l generalizing s with
  | nil => exact h
  | cons n ns ih => exact ih _ (State.contextBoundary_kept k _ n [] h)

theorem State.cycleBoundary_kept (k : Keeps P) (s : State) (h : P s) (hr : s.running) : P s.cycleBoundary := by
  unfold State.cycleBoundary
  split
  · have h1 := k.cycleAdvance _ h
    unfold State.composeNotice
    split
    · exact k.offerNotice _ _ hr (k.noticeTaken _ h1)
    · exact h1
  · exact k.transitions _ h

/-- What a tick owes, done in its order. -/
theorem State.finishTick_kept (k : Keeps P) (s : State) (h : P s) (hr : s.running) : P s.finishTick := by
  unfold State.finishTick
  refine State.cycleBoundary_kept k _ ?_ (by simpa [State.running] using hr)
  exact State.boundaries_kept k _ (State.cycleBoundary_kept k _ h hr)

/-- A tick of a part that owes nothing. -/
theorem State.tick_kept (k : Keeps P) (s : State) (input : TickInput) (hs : s.Settled) (h : P s) : P (s.tick input) := by
  unfold State.tick
  split
  · exact k.advance _ _ hs h
  · exact k.transitions _ (k.advance _ _ hs h)

theorem State.takeUnit_kept (k : Keeps P) (t : State) (port : Port) (bytes : List Byte) (h1 : P t) (hr1 : t.running) :
    P (t.takeUnit port bytes) := by
  unfold State.takeUnit
  split
  · cases port <;> exact k.count t (fun c => _) h1
  · split
    · unfold State.routeA
      split
      · unfold State.routeManagement
        split
        · exact State.control_kept k _ _ _ h1 hr1
        · exact k.count _ _ h1
      · split
        · unfold State.routeForeign
          split
          · exact k.count _ _ h1
          · exact k.offerAToB _ _ hr1 h1
        · unfold State.routeClaimed
          split
          · exact k.count _ _ h1
          · split
            all_goals first
              | exact k.count _ _ h1
              | (unfold State.deliverUnit
                 split
                 · exact k.arrive _ _ _ _ _ _ ‹_› h1
                 · exact k.count _ _ h1)
    · exact k.offerBToA _ _ hr1 h1

theorem State.arrive_kept (k : Keeps P) (s : State) (port : Port) (bytes : List Byte) (h : P s) (hr : s.running) :
    P (s.arrive port bytes) := by
  unfold State.arrive
  split
  · exact k.endReception _ _ h
  · exact State.takeUnit_kept k _ _ _ h hr

/-- Every command keeps a property that the shared operations keep. -/
theorem exec_keeps (k : Keeps P) (i : Instr) (s t : State) (he : exec i s = .next t) (h : P s) : P t := by
  have one : ∀ c env args, (if s.management.device = .reset then Host.Outcome.next s
      else .next (s.controlOne c env args) : Host.Outcome State Fault Refusal) = .next t → P t := by
    intro c env args hh
    split at hh
    · cases hh; exact h
    · cases hh; exact State.control_kept k _ _ _ h ‹_›
  cases i <;> simp only [exec] at he
  case powerUp => cases he; exact k.beginReset _ h
  case pinReset => cases he; exact k.resetPin _ _ (k.beginReset _ h)
  case resetEnd pins =>
    unfold execResetEnd at he
    split at he
    · injection he with he; exact he ▸ k.endReset s pins h
    · injection he with he; exact he ▸ h
  case tick =>
    unfold execTick at he
    split at he <;> (injection he with he; subst he)
    · exact h
    · exact State.tick_kept k _ _ (State.finishTick_settled s) (State.finishTick_kept k _ h ‹_›)
  case deviceCycleBoundary =>
    unfold execDeviceCycleBoundary at he
    split at he <;> (injection he with he; subst he)
    · exact h
    · exact State.cycleBoundary_kept k _ h ‹_›
  case contextBoundary =>
    unfold execContextBoundary at he
    split at he <;> (injection he with he; subst he)
    · exact h
    · exact State.contextBoundary_kept k _ _ _ h
  case unitArrival =>
    unfold execUnitArrival at he
    split at he <;> (injection he with he; subst he)
    · exact h
    · exact State.arrive_kept k _ _ _ h ‹_›
  case peerHoldAsserted => cases he; exact k.holdPin _ _ h
  case peerHoldReleased =>
    unfold execPeerHoldReleased at he
    split at he <;> (injection he with he; subst he)
    · exact k.holdPinReset _ _ ‹_› h
    · exact k.holdReleased _ _ ‹_› h
  case transmissionComplete port =>
    unfold execTransmissionComplete at he
    split at he <;> (injection he with he; subst he)
    · exact h
    · unfold State.complete
      split
      · split
        · exact k.completeA _ _ ‹_› ‹_› h
        · exact h
      · split
        · exact k.completeB _ ‹_› h
        · exact h
  case restartDeadline =>
    unfold execRestartDeadline at he
    split at he <;> (injection he with he; subst he)
    · exact k.beginReset _ h
    · exact h
  case decodeCompletion =>
    unfold execDecodeCompletion at he
    split at he <;> (injection he with he; subst he)
    · exact h
    · exact k.completeDecode _ ‹_› h
  case encodeCompletion =>
    unfold execEncodeCompletion at he
    split at he <;> (injection he with he; subst he)
    · exact h
    · exact k.completeEncode _ ‹_› h
  case voidRunEnd =>
    unfold execVoidRunEnd at he
    split at he <;> (injection he with he; subst he)
    · exact h
    · exact k.endVoid _ ‹_› h
  all_goals exact one _ _ _ he

end Sys2Proof.Machine
end

