-- ==== Sys2Proof/Laws/Speech.lean ====
section
/-! SUPPORT. Speech arithmetic and the CRC: ranges, lengths and the byte-at-a-time form. -/

namespace Sys2Proof.Machine

/-! ## Samples -/

theorem saturate_range (x : Int) : inSampleRange (saturate x) := by
  unfold saturate inSampleRange; omega

theorem saturate_of_range {x : Int} (h : inSampleRange x) : saturate x = x := by
  unfold saturate; unfold inSampleRange at h; show max (-32768 : Int) (min 32767 x) = x; omega

theorem clipOf_eq (x : Int) : clipOf x = if inSampleRange x then 0 else 1 := by
  by_cases h : inSampleRange x
  · rw [if_pos h, clipOf, if_pos (saturate_of_range h)]
  · rw [if_neg h, clipOf, if_neg (fun e : saturate x = x => h (by rw [← e]; exact saturate_range x))]

@[simp] theorem scale_length (g : Nat) (xs : List Sample) : (scale g xs).samples.length = xs.length := by
  simp [scale]

theorem scale_range (g : Nat) (xs : List Sample) : ∀ x ∈ (scale g xs).samples, inSampleRange x := by
  intro x hx
  simp only [scale, List.mem_map] at hx
  obtain ⟨y, _, rfl⟩ := hx
  exact saturate_range _

/-! ## Decoding -/

@[simp] theorem decodeCodes_length (step : Nat) (prev : Sample) (cs : List Code) :
    (decodeCodes step prev cs).samples.length = cs.length := by
  induction cs generalizing prev with
  | nil => rfl
  | cons c cs ih => simp [decodeCodes, ih]

theorem decodeCodes_range (step : Nat) (prev : Sample) (cs : List Code) (h : inSampleRange prev) :
    (∀ x ∈ (decodeCodes step prev cs).samples, inSampleRange x) ∧ inSampleRange (decodeCodes step prev cs).predictor := by
  induction cs generalizing prev with
  | nil => exact ⟨by simp [decodeCodes], h⟩
  | cons c cs ih =>
    have := ih (saturate (reconstruction step prev c)) (saturate_range _)
    simp only [decodeCodes, List.mem_cons]
    refine ⟨?_, this.2⟩
    rintro x (rfl | hx)
    · exact saturate_range _
    · exact this.1 x hx

theorem decodeSubblocks_range (table : Vector Nat 48) (prev : Sample) (steps : List (Fin 48)) (cs : List Code)
    (h : inSampleRange prev) :
    (∀ x ∈ (decodeSubblocks table prev steps cs).samples, inSampleRange x) ∧
      inSampleRange (decodeSubblocks table prev steps cs).predictor := by
  induction steps generalizing prev cs with
  | nil => exact ⟨by simp [decodeSubblocks], h⟩
  | cons i is ih =>
    have here := decodeCodes_range table[i] prev (cs.take 40) h
    have rest := ih (decodeCodes table[i] prev (cs.take 40)).predictor (cs.drop 40) here.2
    simp only [decodeSubblocks, List.mem_append]
    refine ⟨?_, rest.2⟩
    rintro x (hx | hx)
    · exact here.1 x hx
    · exact rest.1 x hx

theorem decodeSubblocks_length (table : Vector Nat 48) (prev : Sample) (steps : List (Fin 48)) (cs : List Code)
    (h : cs.length = 40 * steps.length) : (decodeSubblocks table prev steps cs).samples.length = cs.length := by
  induction steps generalizing prev cs with
  | nil => simp only [List.length_nil, Nat.mul_zero] at h; simp [decodeSubblocks, h]
  | cons i is ih =>
    simp only [List.length_cons] at h
    simp only [decodeSubblocks, List.length_append, decodeCodes_length, List.length_take]
    rw [ih _ _ (by rw [List.length_drop]; omega), List.length_drop]; omega

/-- A well-formed frame decodes to 160 samples. -/
theorem decodeFrame_length (table : Vector Nat 48) (prev : Sample) {f : Frame} (h : f.WellFormed) :
    (decodeFrame table prev f).samples.length = 160 := by
  unfold decodeFrame
  rw [decodeSubblocks_length _ _ _ _ (by rw [h.codes, h.steps]), h.codes]

/-! ## Encoding -/

@[simp] theorem encodeSamples_length (step levels : Nat) (prev : Sample) (xs : List Sample) :
    (encodeSamples step levels prev xs).codes.length = xs.length := by
  induction xs generalizing prev with
  | nil => rfl
  | cons x xs ih => simp [encodeSamples, ih]

/-- Decoding the codes of a subblock retraces its encoding. -/
theorem decodeCodes_encodeSamples (step levels : Nat) (prev : Sample) (xs : List Sample) :
    (decodeCodes step prev (encodeSamples step levels prev xs).codes).predictor =
        (encodeSamples step levels prev xs).predictor ∧
      (decodeCodes step prev (encodeSamples step levels prev xs).codes).clips =
        (encodeSamples step levels prev xs).clips := by
  induction xs generalizing prev with
  | nil => exact ⟨rfl, rfl⟩
  | cons x xs ih =>
    have := ih (saturate (reconstruction step prev (quantise step levels prev x)))
    simp only [encodeSamples, decodeCodes]
    exact ⟨this.1, by rw [this.2]⟩

theorem encodeSamples_magnitudes (step levels : Nat) (prev : Sample) (xs : List Sample) (h : 0 < levels) :
    ∀ c ∈ (encodeSamples step levels prev xs).codes, c.mag < levels := by
  induction xs generalizing prev with
  | nil => intro c hc; simp [encodeSamples] at hc
  | cons x xs ih =>
    intro c hc
    simp only [encodeSamples, List.mem_cons] at hc
    rcases hc with rfl | hc
    · simp only [quantise]; omega
    · exact ih _ c hc

/-! ## The CRC -/

theorem crc8_append (m n : List Byte) : crc8 (m ++ n) = n.foldl crcByte (crc8 m) := by
  simp [crc8]

/-- One bit: register and message bit add up. -/
theorem crcBit_xor (reg reg' : Byte) (bit bit' : Bool) :
    crcBit (reg ^^^ reg') (bit ^^ bit') = crcBit reg bit ^^^ crcBit reg' bit' := by
  have form (r : Byte) (b : Bool) : crcBit r b = r <<< 1 ^^^ (if r.msb ^^ b then 0x07 else 0) := by
    unfold crcBit
    cases r.msb <;> cases b <;> simp
  have sum (a b c d : Bool) : (if (a ^^ b) ^^ (c ^^ d) then (0x07 : Byte) else 0) =
      (if a ^^ c then 0x07 else 0) ^^^ (if b ^^ d then 0x07 else 0) := by
    revert a b c d; decide
  rw [form, form, form, BitVec.msb_xor, sum, BitVec.shiftLeft_xor_distrib]
  ac_rfl

/-- One byte: register and message byte add up. -/
theorem crcByte_xor (reg reg' b b' : Byte) : crcByte (reg ^^^ reg') (b ^^^ b') = crcByte reg b ^^^ crcByte reg' b' := by
  unfold crcByte
  simp only [List.foldl_cons, List.foldl_nil, BitVec.getLsbD_xor, crcBit_xor]

/-- One byte into a register is that byte, exclusive-or the register, into a register of 0. -/
theorem crcByte_eq (reg b : Byte) : crcByte reg b = crcByte 0 (reg ^^^ b) := by
  have same : ∀ r : Byte, crcByte r r = 0 := by decide +kernel
  have := crcByte_xor reg 0 reg (reg ^^^ b)
  rw [same, ← BitVec.xor_assoc, BitVec.xor_self, BitVec.zero_xor] at this
  simpa using this

end Sys2Proof.Machine
end

