-- ==== Sys2Proof/WellFormed.lean ====
section
/-! DEFINITION. Which terms of `Instr` stand for something that can reach the part's pins. `exec` is total and does not
read this check. -/

namespace Sys2Proof

/-- Pulse positions of one interval rise strictly and lie in 1..span (R26). -/
def pulsesWellFormed (span : Nat) : Nat → List Nat → Bool
  | _, [] => true
  | after, p :: ps => after < p && p ≤ span && pulsesWellFormed span p ps

/-- An interval is at least one bit period long (R26). -/
def HighwayInput.wellFormed (h : HighwayInput) : Bool :=
  0 < h.span && pulsesWellFormed h.span 0 h.pulses

/-- A job reference names one of the 192 contexts (R1). -/
def JobRef.wellFormed (r : JobRef) : Bool :=
  r.context < Config.contexts

/-- A payload is at most 255 bytes, so beside the tag, the code and the length byte at most 252 argument bytes
stand in a one-command CONTROL unit (R161, R183). -/
def argsWellFormed (args : List Byte) : Bool :=
  args.length ≤ 252

/-- The check, constructor by constructor. -/
def Instr.wellFormed : Instr → Bool
  | .powerUp => true
  | .pinReset => true
  | .resetEnd _ => true
  | .tick input => input.highways.toList.all HighwayInput.wellFormed
  | .deviceCycleBoundary => true
  | .contextBoundary n order => n < Config.contexts && order.all JobRef.wellFormed
  | .unitArrival _ _ => true
  | .identify _ args => argsWellFormed args
  | .setState _ args => argsWellFormed args
  | .hold _ args => argsWellFormed args
  | .release _ args => argsWellFormed args
  | .restart _ args => argsWellFormed args
  | .openCall _ args => argsWellFormed args
  | .modify _ args => argsWellFormed args
  | .close _ args => argsWellFormed args
  | .contextReport _ args => argsWellFormed args
  | .writeTable _ args => argsWellFormed args
  | .writeNext _ args => argsWellFormed args
  | .readTable _ args => argsWellFormed args
  | .readNext _ args => argsWellFormed args
  | .readStatus _ args => argsWellFormed args
  | .clearFlags _ args => argsWellFormed args
  | .setNoticeMask _ args => argsWellFormed args
  | .traceArm _ args => argsWellFormed args
  | .traceRead _ args => argsWellFormed args
  | .peerHoldAsserted _ => true
  | .peerHoldReleased _ => true
  | .transmissionComplete _ => true
  | .restartDeadline => true
  | .decodeCompletion => true
  | .encodeCompletion => true
  | .voidRunEnd => true

end Sys2Proof
end

