-- ==== Sys2Proof/Tests/Slice0.lean ====
section
/-! SUPPORT. Tests: what WellFormed refuses, the manual's worked examples on single operations and steps, and for every
statement of Certificates/Slice0/Obligations.lean a concrete state and operands that meet its hypotheses. -/

-- The kernel evaluates each of these, and a thread with a stack of its own would wait for each: one after another instead.
set_option Elab.async false

namespace Sys2Proof.Machine

/-! ## States and operands the tests are built from -/

/-- The state an outcome goes on with. -/
def after (o : Host.Outcome State Fault Refusal) : State :=
  match o with
  | .next t => t
  | _ => State.reset

def env : Envelope := { tag := 0x2A, seq := 9 }

/-- A highway frame with 0x5A in timeslot 5, bits 40 to 47 from the frame pulse (2.1), and zeros elsewhere. -/
def frame5A : BitVec 512 := 0x5A#512 <<< 464

/-- The same interval on all four highways. -/
def everyHighway (h : HighwayInput) : Vector HighwayInput 4 :=
  Vector.replicate 4 h

/-- One highway interval with pulses at the given bit periods. -/
def interval (span : Nat) (pulses : List Nat) : HighwayInput :=
  { span := span, pulses := pulses, frame := frame5A }

/-- A tick with the same interval on all four highways. -/
def tickOf (h : HighwayInput) (late : Bool) : TickInput :=
  { highways := everyHighway h, late := late }

/-- Every strap low, and whether a unit is in the middle of arriving at each port. -/
def pinsArriving (a b : Bool) : ResetPins :=
  { straps := { mgsel := 0, chainEnd := false, hwyRole := false }, arrivingA := a, arrivingB := b }

/-- In RESET. -/
def fallen : State := after (exec .powerUp State.reset)

/-- OPERATING, with window 0 claiming 0x1000..0x10BF for contexts 0..191. -/
def operating : State :=
  { State.reset with
    management := { State.reset.management with device := .operating },
    tables :=
      { State.reset.tables with
        window := State.reset.tables.window.set 0 { valid := true, base := 0x1000, limit := 0x10BF, first := 0 } } }

/-- OPEN of context 0 on highway 0, timeslot 5, phase 10, law E, label 0x1000, depth 2, every mode, follow-requests on. -/
def openArgs : List Byte := [0, 0, 5, 10, 0, 0x10, 0x00, 2, 7, 3, 0, 0, 0, 1, 0, 0]

/-- `operating` with that call open, its RESPONSE sent. -/
def calling : State := { after (exec (.openCall env openArgs) operating) with links := operating.links }

/-- `calling` with context 0 changed. -/
def callingWith (f : Channel → Channel) : State := calling.updateChannel 0 f

/-- A frame of mode 2. -/
def quietFrame : Frame :=
  { mode := .two, steps := [21, 0, 47, 5], codes := List.replicate 160 { neg := false, mag := 0 } }

def decodeJob : Job := { context := 0, generation := 1, work := .zero, law := .e, gain := 0, void := false }

def encodeWork : EncodeWork :=
  { bank := .first, mode := .three, suppression := false, threshold := 0, preference := none, label := 0x1000 }

def encodeJob : Job := { decodeJob with work := .encode encodeWork }

/-- `calling` at its boundary, the frame counter at its phase. -/
def due : State :=
  { callingWith fun c => { c with boundaryDue := true } with highway := { calling.highway with frameCounter := 10 } }

/-- `due`, past its first boundary. -/
def later : State := due.updateChannel 0 fun c => { c with firstBoundary := false }

/-- `calling` with a run in progress. -/
def busyWith (j : Job) : State := { calling with engine := { calling.engine with current := some (calling.startRun j) } }

/-- `due` with a second call at its boundary, of context 1 on highway 1. -/
def twoDue : State :=
  { (after (exec (.openCall env [1, 1, 5, 10, 0, 0x10, 0x01, 2, 7, 3, 0, 0, 0, 1, 0, 0]) due)).updateChannel 1 fun c =>
      { c with boundaryDue := true } with
    links := operating.links }

/-- A highway with the given lock state and record. -/
def highwayAt (locked : Bool) (record : Option Nat) : Highway :=
  { Highway.atReset with locked := locked, lastPulse := record }

/-- Every highway alike, and the tick source. -/
def supervised (h : Highway) (source : TickSource) : State :=
  { State.reset with highway := { State.reset.highway with highways := Vector.replicate 4 h, tickSource := source } }

/-- A unit of the given label and kind, its header fields otherwise 0. -/
def header (label : BitVec 16) (kind : BitVec 4) (mode : BitVec 4) (length : Byte) : Header :=
  { label := label, kind := kind, mode := mode, seq := 4, request := 3, quality := 12, length := length }

def queued (n : Byte) (kind : UnitKind) (stamp : Byte) : QueuedUnit :=
  { bytes := [n], kind := kind, stamp := stamp, restarts := false }

/-- What holds of a context after reset and of every context of the table holds of every number. -/
theorem every_channel (s : State) (p : Channel → Bool) (outside : p Channel.atReset = true)
    (inside : s.channels.toList.all p = true) (n : Nat) : p (s.channel n) = true := by
  unfold State.channel
  cases h : s.channels[n]? with
  | none => exact outside
  | some c =>
    rw [List.all_eq_true] at inside
    apply inside
    rw [Vector.getElem?_eq_some_iff] at h
    obtain ⟨hn, rfl⟩ := h
    simp

/-! ## WellFormed -/

theorem test_wellFormed_accepts_tick :
    (Instr.tick
        { highways := #v[interval 512 [512], interval 512 [], interval 511 [1, 2, 511], interval 1 [1]],
          late := true }).wellFormed = true := by
  decide
theorem test_wellFormed_refuses_empty_interval :
    (Instr.tick (tickOf (interval 0 []) false)).wellFormed = false := by decide
theorem test_wellFormed_refuses_pulse_at_zero :
    (Instr.tick (tickOf (interval 512 [0]) false)).wellFormed = false := by decide
theorem test_wellFormed_refuses_pulse_after_interval :
    (Instr.tick (tickOf (interval 512 [513]) false)).wellFormed = false := by decide
theorem test_wellFormed_refuses_pulses_that_do_not_rise :
    (Instr.tick (tickOf (interval 512 [100, 100]) false)).wellFormed = false := by decide
theorem test_wellFormed_refuses_context_192 :
    (Instr.contextBoundary 191 []).wellFormed = true ∧ (Instr.contextBoundary 192 []).wellFormed = false := by decide
theorem test_wellFormed_refuses_order_192 :
    (Instr.contextBoundary 0 [{ context := 192, kind := .decode }]).wellFormed = false := by decide

/-- The longest argument list of a catalogue row has 252 bytes. -/
theorem test_wellFormed_refuses_253_arguments :
    ∀ row ∈ [Instr.identify, .setState, .hold, .release, .restart, .openCall, .modify, .close, .contextReport, .writeTable,
        .writeNext, .readTable, .readNext, .readStatus, .clearFlags, .setNoticeMask, .traceArm, .traceRead],
      (row env (List.replicate 252 0)).wellFormed = true ∧ (row env (List.replicate 253 0)).wellFormed = false := by
  decide +kernel

/-! ## The table gives no bits -/

theorem test_no_word_spells_a_command : decodeTableWord 32 0xFFFFFFFF = none := rfl
theorem test_withFetchWord_changes_nothing : State.reset.withFetchWord 32 0 = State.reset := rfl

/-! ## Worked examples of the manual -/

/-- 6.2: law E of 305 and back. -/
theorem test_law_e_of_305 : encodeE 305 = 0xC6 ∧ decodeE 0xC6 = 312 := by decide +kernel
/-- 6.2: law B of 305 and back. -/
theorem test_law_b_of_305 : encodeB 305 = 0xE4 ∧ decodeB 0xE4 = 308 := by decide +kernel
/-- 6.3: 3/4 of 305 and of -305. -/
theorem test_gain_three_quarters : (scale 3072 [305, -305]).samples = [229, -229] := by decide +kernel
/-- 6.3: twice 20000 saturates and counts one clip. -/
theorem test_gain_saturates : scale 8192 [20000] = { samples := [32767], clips := 1 } := by decide +kernel
/-- 6.6: the decoding worked with step value 160. -/
theorem test_decode_subblock :
    (decodeCodes 160 0 [⟨false, 1⟩, ⟨false, 0⟩, ⟨true, 1⟩, ⟨true, 1⟩]).samples = [240, 305, 45, -198] := by decide +kernel
/-- 6.8: the step choice for a peak of 9000 in the three modes. -/
theorem test_step_choice_of_9000 :
    [2, 4, 8].map (fun levels => (chooseStep resetStepTable levels 9000).val) = [38, 34, 29] := by decide +kernel
/-- 6.9: single-byte values, and leading zeros. -/
theorem test_crc_values : crc8 [0x01] = 0x07 ∧ crc8 [0x80] = 0x89 ∧ crc8 [0, 0, 1] = 0x07 ∧ crc8 [1, 7] = 0 := by
  decide +kernel
/-- 11.6: the window 0x4000 to 0x403F, first context 64. -/
theorem test_window_entry :
    Window.ofBytes? [0x01, 0x40, 0x00, 0x40, 0x3F, 0x40] =
      some { valid := true, base := 0x4000, limit := 0x403F, first := 64 } := by decide +kernel

/-- The outcomes of cycles with the given peaks, at a threshold of 200. -/
def outcomesOf : EncoderState → List Nat → List Outcome
  | _, [] => []
  | e, peak :: peaks => (e.outcome true (decide (peak ≤ 200))).1 :: outcomesOf (e.outcome true (decide (peak ≤ 200))).2 peaks

/-- The peaks of 31 cycles of a pause (7.7), and the outcomes it gives: units at 1 to 5, 29 and 31. -/
def pausePeaks : List Nat := [5000, 150, 96, 8, 8] ++ List.replicate 24 8 ++ [40, 3000]

def pauseOutcomes : List Outcome :=
  List.replicate 4 Outcome.speech ++ Outcome.silence :: List.replicate 23 Outcome.nothing ++
    [Outcome.silence, Outcome.nothing, Outcome.speech]

theorem test_pause_in_the_landline : outcomesOf Codec.start.encoder pausePeaks = pauseOutcomes := by decide +kernel

/-- 3.9: at the release, the stale head S1 goes and S2 is sent. -/
theorem test_port_a_after_a_hold :
    let held : State :=
      { State.reset with
        highway := { State.reset.highway with cycleCounter := 43 },
        links :=
          { State.reset.links with
            portA := { State.reset.links.portA with hold := true },
            originated := [queued 1 .speech 40, queued 2 .speech 41, queued 9 .response 42, queued 3 .speech 43],
            bToA := [[0x50]] } }
    let t := after (exec (.peerHoldReleased .a) held)
    t.links.originated = [queued 9 .response 42, queued 3 .speech 43] ∧ t.links.bToA = [[0x50]] ∧
      t.links.portA.sending.map Sending.bytes = some [2] ∧ t.links.lastServed = .originated ∧
      t.status.counters.stale = 1 ∧ t.status.flags = 0x40 := by
  decide +kernel

/-- 4.6: the first three arrivals of context 12 and the boundary after them. -/
theorem test_arrivals_before_the_first_play :
    let c : Channel := { Channel.atReset with applied := { Applied.atReset with followRequests := true } }
    let c := c.arrive 200 (.speech quietFrame) 3 12
    let c := c.arrive 202 .damaged 3 9
    let c := c.arrive 201 (.speech quietFrame) 0 11
    let d := c.playout.decide 3 4
    c.playout.queue.map (fun e => e.seq) = [200, 201, 202] ∧ c.waiting.target = some .three ∧
      c.playout.lastQuality = 11 ∧ c.playout.minQuality = 9 ∧
      d.work = .frame quietFrame ∧ d.playout.nextSeq = 201 ∧ d.counted = .good := by
  decide +kernel

/-- 9.5, command 1: 20000 is stored as 16383, and the entries past the end are not. -/
theorem test_write_past_the_end :
    let r := cmdWriteTable ([2, 30] ++ natBytes16 3072 ++ natBytes16 20000 ++ natBytes16 4096 ++ natBytes16 4096) operating
    r.result = .tableEnd ∧ r.data = [2] ∧ r.state.tables.gain[30] = 3072 ∧ r.state.tables.gain[31] = 16383 ∧
      r.state.management.cursor = { table := .gain, index := 32 } := by
  decide +kernel

/-- 10.6, boundary 14: STREAM-GAIN alone and two contexts make the seven payload bytes of 11.5. -/
theorem test_notice_payload :
    let s : State :=
      { State.reset.setChannel 9
          { Channel.atReset with
            playout := { Playout.start with health := { health := .present, goodRun := 1, lostRun := 0 } } } with
        status := { State.reset.status with flags := 0x11, mask := 0xC7, healthChanged := [9, 12] } }
    s.noticePayload = [0x10, 0x02, 0x00, 0x09, 0x01, 0x0C, 0x00] := by
  decide +kernel

/-- 2.1: timeslot 5 is bits 40 to 47 of the frame, most significant first; the timeslots beside it hold zeros. -/
theorem test_timeslot_5_of_a_frame :
    timeslotCode frame5A 5 = 0x5A ∧ timeslotCode frame5A 4 = 0 ∧ timeslotCode frame5A 6 = 0 ∧
      ((List.finRange 512).filter fun k => frame5A.getMsbD k.val).map Fin.val = [41, 43, 44, 46] := by
  decide +kernel

/-- 2.2, 2.3: a newly locked reference that has missed its pulse: a pulse at the start of the next tick's frame is good, and the
other highways are judged against the tick; where the pulse moves the tick, they are judged at its end. -/
theorem test_judgments_after_a_lock :
    let missed : State := supervised (highwayAt true none) .internal
    let kept : State := supervised (highwayAt true (some 212)) .internal
    let others : Vector HighwayInput 4 := (everyHighway (interval 512 [512])).set 0 (interval 300 [300])
    missed.judge 0 (everyHighway (interval 512 [512])) = true ∧ missed.judge 1 (everyHighway (interval 511 [511])) = false ∧
      missed.judge 1 others = true ∧ missed.judge 0 others = false ∧ kept.judge 0 others = true ∧
      kept.judge 1 (everyHighway (interval 300 [300])) = true := by
  decide +kernel

/-- 11.2: the worked packing: steps 21, 0, 47, 5 and codes 01, 00, 11, 11 of mode 2; and four indices of 21. -/
theorem test_worked_packing :
    let f : Frame :=
      { quietFrame with
        codes := [⟨false, 1⟩, ⟨false, 0⟩, ⟨true, 1⟩, ⟨true, 1⟩] ++ List.replicate 156 { neg := false, mag := 0 } }
    f.payload.take 5 = [0x54, 0x0B, 0xC5, 0x4F, 0x00] ∧
      ({ f with steps := [21, 21, 21, 21] } : Frame).payload.take 3 = [0x55, 0x55, 0x55] ∧
      unpackFrame .two f.payload = f := by
  decide +kernel

/-! ## Witnesses: for each statement, a state and operands that meet its hypotheses, clause by clause -/

theorem witness_StepRunsFrontCommand :
    ({ State.reset with pending := [.powerUp] } : State).pending = .powerUp :: [] ∧ State.reset.pending = [] := ⟨rfl, rfl⟩

theorem witness_ResetsAbandonWorkAndStopThePart :
    ({ State.reset with management := { State.reset.management with restart := some [] } } :
        State).management.restart.isSome = true ∧
      fallen.management.device = .reset ∧ fallen.management.restart = none ∧ Instr.voidRunEnd ≠ .powerUp := by
  decide +kernel

theorem witness_ResetEndGivesResetValues :
    fallen.management.device = .reset ∧ fallen.links.portA.hold = false ∧ fallen.links.portB.hold = false ∧
      fallen.pending = [] ∧ State.reset.running := by
  decide +kernel

theorem settled_of (s : State) (cycle : s.highway.cycleDue = false)
    (transitions : s.highway.transitions = .none) (owed : s.channels.toList.all (fun c => !c.boundaryDue) = true) :
    s.Settled :=
  ⟨cycle, fun n => by simpa using every_channel s (fun c => !c.boundaryDue) rfl owed n, transitions⟩

theorem settled_reset : State.reset.Settled := settled_of _ rfl rfl (by decide +kernel)
theorem settled_calling : calling.Settled :=
  settled_of _ (by decide +kernel) (by decide +kernel) (by decide +kernel)

/-- Context 0, phase 10, is at its boundary when the counter comes to 10, at position 1 when it comes to 11 and at
position 159 when it comes to 9; context 1 is FREE. -/
theorem witness_TickCountsAndTransfers :
    calling.running ∧ calling.Settled ∧ (calling.channel 1).state = .free ∧ (calling.channel 0).state ≠ .free ∧
      (calling.channel 0).binding.map Binding.phase = some 10 ∧ (11 + 160 - 10) % 160 = 1 ∧ (9 + 160 - 10) % 160 = 159 ∧
      (calling.channel 0).buffers.playing[1]? = some 0xD5 ∧ (calling.channel 0).buffers.playing[159]? = some 0xD5 ∧
      (∀ k, k < 8 → (0x5A : Byte).getMsbD k = frame5A.getMsbD (8 * (5 : Fin 64).val + k)) ∧
      due.running ∧ (due.channel 0).boundaryDue = true :=
  ⟨by decide +kernel, settled_calling, by decide +kernel, by decide +kernel, by decide +kernel, rfl, rfl,
    by decide +kernel, by decide +kernel, by decide +kernel, by decide +kernel, by decide +kernel⟩

/-- After reset the part is a SLAVE: without a record a pulse is bad, one frame after the recorded one it is good. -/
theorem witness_JudgmentsMoveBothCounts :
    State.reset.running ∧ State.reset.judge 0 (everyHighway (interval 512 [512])) = false ∧
      (supervised (highwayAt false (some 0)) .internal).judge 0 (everyHighway (interval 512 [512])) = true := by
  decide +kernel

/-- MASTER; the reference unlocked and locked; another highway; a tick at the pulse of a newly locked reference, 212 bit periods
before the frame that follows it, and ones that are not: without a record, another spacing, its pulse not the last bit, and
with an earlier tick timed by it. -/
theorem witness_JudgmentTable :
    let locked (record : Option Nat) : State := supervised (highwayAt true record) .internal
    let early : Vector HighwayInput 4 := everyHighway (interval 300 [300])
    ({ State.reset with tables := { State.reset.tables with settings := State.reset.tables.settings.set 0 0 } } :
        State).tables.setting 0 ≠ 1 ∧
      State.reset.tables.setting 0 = 1 ∧ (0 : Fin 4) = State.reset.tables.reference ∧
      (3 : Fin 4) ≠ State.reset.tables.reference ∧ State.reset.highway.highways[0].locked = false ∧
      (locked none).highway.highways[0].locked = true ∧ (locked none).highway.tickSource = .internal ∧
      (locked (some 212)).referenceHighway.lastPulse = some 212 ∧ early[0].pulses = [early[0].span] ∧ 212 + 300 = 512 ∧
      (locked none).referenceHighway.lastPulse = none ∧ 211 + 300 ≠ 512 ∧
      (interval 300 [299]).pulses ≠ [(interval 300 [299]).span] ∧
      (supervised (highwayAt true (some 212)) .referencePulse).highway.tickSource ≠ .internal := by
  decide +kernel

/-- The reset codes 4 and 3, and the least and the greatest code; a tick that leaves its flag events and one that takes
them. -/
theorem witness_LockTransitionsAndFlags :
    State.reset.running ∧ State.reset.Settled ∧
      [1, 2, 4, 8, 16, 32, 64, 128][State.reset.tables.setting 2]? = some 16 ∧
      [1, 2, 4, 8, 16, 32, 64, 128][State.reset.tables.setting 3]? = some 8 ∧
      [1, 2, 4, 8, 16, 32, 64, 128][0]? = some 1 ∧ [1, 2, 4, 8, 16, 32, 64, 128][7]? = some 128 ∧
      State.reset.highway.highways[0].locked = false ∧ (highwayAt true none).locked = true ∧
      (tickOf (interval 512 []) true).late = true ∧ (tickOf (interval 512 []) false).late = false :=
  ⟨by decide +kernel, settled_reset, by decide +kernel, by decide +kernel, rfl, rfl, by decide +kernel, rfl, rfl, rfl⟩

theorem witness_DeviceCycleBoundaryComposesNotice :
    let owing : State := { State.reset with highway := { State.reset.highway with cycleDue := true } }
    let wanting : State := { owing with status := { owing.status with noticeWanted := true, healthChanged := [9, 12] } }
    State.reset.running ∧ State.reset.highway.cycleDue = false ∧ State.reset.highway.transitions = .none ∧
      owing.running ∧ owing.highway.cycleDue = true ∧
      owing.status.noticeWanted = false ∧ wanting.highway.cycleDue = true ∧ wanting.status.noticeWanted = true := by
  decide +kernel

/-- A boundary of the call with the staging hold clear, and the same with it set. -/
theorem witness_BoundaryAppliesSettings :
    due.running ∧ (due.channel 0).boundaryDue = true ∧ (due.channel 0).state = .opened ∧
      (due.channel 0).binding.isSome = true ∧ due.stagingHold = false ∧
      ({ due with stagingHold := true } : State).stagingHold = true := by
  decide +kernel

/-- The first boundary, and a later one. -/
theorem witness_BoundaryExchangesBuffers :
    due.running ∧ (due.channel 0).boundaryDue = true ∧ (due.channel 0).state = .opened ∧
      (due.channel 0).binding.map Binding.phase = some due.highway.frameCounter ∧ due.highway.frameCounter < 160 ∧
      (due.channel 0).firstBoundary = true ∧
      (later.channel 0).firstBoundary = false ∧
      (due.channel 0).buffers.playing[0]? = some 0xD5 ∧ (due.channel 0).binding.map Binding.timeslot = some 5 ∧
      (∀ k, k < 8 → (0 : Byte).getMsbD k = due.highway.highways[0].received.getMsbD (8 * (5 : Fin 64).val + k)) := by
  decide +kernel

/-- The first boundary and a later one, the engine idle and busy. -/
theorem witness_BoundaryIssuesJobs :
    let busy : State := { later with engine := (busyWith decodeJob).engine }
    due.running ∧ (due.channel 0).boundaryDue = true ∧ (due.channel 0).state = .opened ∧
      (due.channel 0).binding.isSome = true ∧ (due.channel 0).counters.engineLate ≤ 65535 ∧
      (due.channel 0).firstBoundary = true ∧ due.engine.current = none ∧
      busy.running ∧ (busy.channel 0).boundaryDue = true ∧ (busy.channel 0).state = .opened ∧
      (busy.channel 0).binding.isSome = true ∧ (busy.channel 0).counters.engineLate ≤ 65535 ∧
      (busy.channel 0).firstBoundary = false ∧ busy.engine.current = some (calling.startRun decodeJob) := by
  decide +kernel

/-- The reset codes 3 and 4 give 5 and 10 frames; the least and the greatest code stand beside them. -/
theorem witness_BoundaryDecidesAndRecordsHealth :
    due.running ∧ (due.channel 0).boundaryDue = true ∧ (due.channel 0).state = .opened ∧
      (due.channel 0).binding.isSome = true ∧
      [1, 2, 3, 5, 10, 20, 50, 100][due.tables.setting 4]? = some 5 ∧
      [1, 2, 3, 5, 10, 20, 50, 100][due.tables.setting 5]? = some 10 ∧
      [1, 2, 3, 5, 10, 20, 50, 100][0]? = some 1 ∧ [1, 2, 3, 5, 10, 20, 50, 100][7]? = some 100 := by
  decide +kernel

/-- The call closing at its boundary, with a job in flight and a trace armed on it. -/
theorem witness_ClosingCompletesAtBoundary :
    let closing : State :=
      { due.updateChannel 0 fun c => { c with state := .closing } with
        engine := { due.engine with queue := [decodeJob] },
        trace := .armed { context := 0, point := .uplink, generation := 1 } }
    closing.running ∧ (closing.channel 0).boundaryDue = true ∧ (closing.channel 0).state = .closing ∧
      (closing.channel 0).counters.engineLate ≤ 65535 ∧
      closing.engine.inFlight.countP (fun j => j.context == 0 && !j.void) = 1 := by
  decide +kernel

/-- The boundaries of contexts 0 and 1 at one tick, and contexts that owe none; the order that names context 1's DECODE first;
queues of 31 and of 32 jobs; heads that are void and one that is not. -/
theorem witness_IssuedJobsArePlacedAndTaken :
    let void : Job := { decodeJob with void := true }
    let order : List JobRef := [] ++ { context := 1, kind := .decode } :: [{ context := 0, kind := .decode }]
    let issued := twoDue.boundaryJobs 0 ++ twoDue.boundaryJobs 1
    twoDue.running ∧ (twoDue.channel 0).boundaryDue = true ∧ (twoDue.channel 1).boundaryDue = true ∧
      issued.map Job.ref = [{ context := 0, kind := .decode }, { context := 1, kind := .decode }] ∧
      issued.map (fun j => j.matches { context := 1, kind := .decode }) = [false, true] ∧ order.length = 2 ∧
      calling.running ∧ (calling.channel 0).boundaryDue = false ∧ (calling.channel 1).boundaryDue = false ∧
      (calling.channel 1).state ≠ .opened ∧
      (List.replicate 31 void).length < 32 ∧ 32 ≤ (List.replicate 32 void).length ∧
      decodeJob.context < 192 ∧ (calling.channel 0).counters.engineLate ≤ 65535 ∧
      (busyWith decodeJob).engine.current.isSome = true ∧ calling.engine.current = none ∧
      (∀ j ∈ [void], j.void = true) ∧ decodeJob.void = false := by
  decide +kernel

/-- Every mode, and the set of modes 2 and 4 with the targets on both sides. -/
theorem witness_ModesResolveAndStep :
    let ends : ModeSet := { two := true, three := false, four := true }
    let top : ModeSet := { two := false, three := false, four := true }
    ends.nonempty = true ∧ ends.has .two = true ∧ ends.has .four = true ∧ Mode.two.width < 3 ∧ Mode.four.width = 4 ∧
      (∀ x ∈ [Mode.two, .three, .four], top.has x = true → 3 < x.width) ∧
      Mode.two.width < Mode.four.width ∧ Mode.four.width > Mode.two.width := by
  decide

def silentHead : Entry := { seq := 0, body := .silence }

/-- Each decision: primed by depth and by limit, still priming, a gap, SILENT and empty, and the three heads. -/
theorem witness_PlayoutDecisionTable :
    let primed : Playout := { Playout.start with queue := [silentHead] }
    let playing : Playout := { primed with state := .playing }
    let silent : Playout := { Playout.start with state := .silent, silentGap := 31 }
    primed.state = .priming ∧ 1 ≤ primed.queue.length ∧ 4 ≤ ({ primed with primingCount := 4 } : Playout).primingCount ∧
      primed.queue ≠ [] ∧ primed.queue.length < 2 ∧ primed.primingCount < 4 ∧ Playout.start.queue = [] ∧
      playing.state = .playing ∧ silentHead.seq = playing.nextSeq ∧
      (∀ head ∈ ({ playing with nextSeq := 1 } : Playout).queue.head?, head.seq ≠ 1) ∧
      silent.state = .silent ∧ silent.queue = [] ∧
      (Playout.start.lastGood = none ∧ ({ playing with lastGood := some quietFrame } : Playout).lastGood = some quietFrame) ∧
      min 255 (5 + 1) = 6 ∧ min 255 (6 + 1) = 7 ∧
      (({ playing with queue := [] } : Playout).decide 1 4).counted = .lost := by
  decide +kernel

/-- Distances at the edges of the four clauses: 0 and 7, 8 and 127, 128 and 255; a DAMAGED entry and its repair. -/
theorem witness_ArrivalDisposition :
    let anchored : Playout := { Playout.start with anchored := true }
    let damagedHead : Entry := { silentHead with body := .damaged }
    ((0 : Byte) - anchored.nextSeq).toNat ≤ 7 ∧ ((7 : Byte) - anchored.nextSeq).toNat ≤ 7 ∧
      8 ≤ ((8 : Byte) - anchored.nextSeq).toNat ∧ ((127 : Byte) - anchored.nextSeq).toNat ≤ 127 ∧
      128 ≤ ((128 : Byte) - anchored.nextSeq).toNat ∧ 128 ≤ ((255 : Byte) - anchored.nextSeq).toNat ∧
      (∀ q ∈ [silentHead], q.seq ≠ 7) ∧ [silentHead] = [] ++ silentHead :: [] ∧ silentHead.body ≠ .damaged ∧
      EntryBody.silence ≠ .damaged ∧ [damagedHead] = [] ++ damagedHead :: [] ∧ damagedHead.body = .damaged ∧
      damagedHead.seq = 0 ∧ (calling.channel 0).applied.followRequests = true ∧
      (3 : BitVec 4).toNat = Mode.three.width ∧ (calling.channel 0).playout.anchored = false := by
  decide +kernel

/-- Receptions abandoned and none; six bytes, a wrong check and a wrong length fail the check; 255 payload bytes pass it. -/
theorem witness_IngressTakesBuiltUnitsAlone :
    let ended := after (exec (.resetEnd (pinsArriving true true)) fallen)
    ended.running ∧ ended.links.portA.reception = .abandoned ∧ ended.links.portB.reception = .abandoned ∧
      State.reset.links.portA.reception = .none ∧ State.reset.links.portB.reception = .none ∧
      ([0, 0, 0, 0, 0, 0] : List Byte)[6]? = none ∧ crc8 [0, 0, 0, 0, 0, 0] ≠ 1 ∧
      ([0, 0, 0, 0, 0, 0, 0, 0] : List Byte).length ≠ 7 + (0 : Byte).toNat ∧
      State.reset.running ∧ ingress [0, 0, 0, 0, 0, 0] = none ∧ ingress [0, 0, 0, 0, 0, 0, 1] = none ∧
      ingress [0, 0, 0, 0, 0, 0, 0, 0] = none ∧ (List.replicate 255 (0 : Byte)).length = (header 0 0 0 255).length.toNat ∧
      (ingress ((header 0x1000 1 2 255).unit (List.replicate 255 0))).isSome = true := by
  decide +kernel

/-- A foreign unit, and queues of 63 and of 64 units. -/
theorem witness_PassThroughQueuesOrDrops :
    State.reset.running ∧ State.reset.links.portA.reception = .none ∧ State.reset.links.portB.reception = .none ∧
      ingress ((header 0x2000 1 2 0).unit []) = some (header 0x2000 1 2 0, []) ∧
      State.reset.links.bToA.length < 64 ∧ (List.replicate 63 ([0] : List Byte)).length < 64 ∧
      64 ≤ (List.replicate 64 ([0] : List Byte)).length ∧ (0x2000 : BitVec 16) ≠ operating.managementLabel ∧
      operating.tables.lookup 0x2000 = none ∧ operating.management.straps.chainEnd = false := by
  decide +kernel

/-- The management label, the labels at both ends of window 0 and beside them, and a unit of each kind. -/
theorem witness_PortARoutesByLabelAndKind :
    let wide : Tables :=
      { operating.tables with
        window := operating.tables.window.set 1 { valid := true, base := 0x10C0, limit := 0x10C0, first := 191 } }
    calling.running ∧ calling.links.portA.reception = .none ∧ (0xFFF0 : BitVec 16) = calling.managementLabel ∧
      (header 0xFFF0 3 0 0).kind = 3 ∧ (header 0xFFF0 4 0 0).kind ≠ 3 ∧ calling.tables.lookup 0x0FFF = none ∧
      calling.tables.lookup 0x1000 = some 0 ∧ calling.tables.lookup 0x10BF = some 191 ∧
      calling.tables.lookup 0x10C0 = none ∧ wide.lookup 0x10C0 = some 191 ∧
      ({ wide with window := wide.window.set 1 { valid := true, base := 0x10C0, limit := 0x10C1, first := 191 } } :
        Tables).lookup 0x10C1 = some 192 ∧
      (calling.channel 0).state = .opened ∧ (calling.channel 1).state ≠ .opened ∧
      (2 : BitVec 4).toNat = Mode.two.width ∧ quietFrame.payload.length = Mode.two.payloadLength ∧
      quietFrame.payload.getLast? = some (crc8 quietFrame.payload.dropLast) ∧
      (List.replicate 44 (1 : Byte)).getLast? ≠ some (crc8 (List.replicate 44 (1 : Byte)).dropLast) := by
  decide +kernel

/-- Queues of 59 and 60 units of speech, and of 63 and 64 units. -/
theorem witness_OriginatedQueueReservations :
    let speech (n : Nat) : List QueuedUnit := List.replicate n (queued 1 .speech 0)
    let mixed (n : Nat) : List QueuedUnit := speech 59 ++ List.replicate n (queued 2 .notice 0)
    let perishable (q : List QueuedUnit) : Nat :=
      (q.filter fun u => u.kind = .speech ∨ u.kind = .silence).length
    (speech 59).length < 64 ∧ perishable (speech 59) < 60 ∧ ¬perishable (speech 60) < 60 ∧
      (mixed 4).length < 64 ∧ perishable (mixed 4) < 60 ∧ 64 ≤ (mixed 5).length := by
  decide +kernel

/-- A busy and a held port; both queues, one queue and none; speech of age 2 and of age 3, the reset limit. -/
theorem witness_PortASelection :
    let unit : Sending := { bytes := [], origin := .originated, restarts := false }
    (({ State.reset.links.portA with sending := some unit } : LinkPort).sending.isSome = true) ∧
      (({ State.reset.links.portA with hold := true } : LinkPort).hold = true) ∧ State.reset.links.originated = [] ∧
      State.reset.links.bToA = [] ∧ State.reset.links.portA.sending = none ∧ State.reset.links.portA.hold = false ∧
      State.reset.links.lastServed = .passThrough ∧ [queued 1 .speech 40] ++ [queued 2 .speech 41] ≠ [] ∧
      State.reset.tables.setting 6 = 3 ∧ 3 ≤ ((43 : Byte) - (queued 1 .speech 40).stamp).toNat ∧
      ¬3 ≤ ((43 : Byte) - (queued 2 .speech 41).stamp).toNat ∧ (queued 9 .response 0).kind ≠ .speech := by
  decide +kernel

theorem witness_TransmissionCompletes :
    let unit : Sending := { bytes := [1], origin := .originated, restarts := true }
    let pass : Sending := { bytes := [1], origin := .passThrough, restarts := false }
    let sending : State :=
      { State.reset with
        links :=
          { State.reset.links with
            portA := { State.reset.links.portA with sending := some unit },
            portB := { State.reset.links.portB with sending := some pass }, aToB := [[2]] } }
    let restarting : State := { sending with management := { sending.management with restart := some [] } }
    sending.running ∧ sending.links.portA.sending = some unit ∧ unit.restarts = true ∧ pass.restarts = false ∧
      restarting.management.restart.isSome = true ∧ sending.management.restart = none ∧
      State.reset.links.portA.sending = none ∧ State.reset.links.portB.sending = none ∧
      sending.links.portB.sending = some pass ∧ sending.links.portB.hold = false ∧ sending.links.aToB = [2] :: [] ∧
      State.reset.links.aToB = [] := by
  decide +kernel

theorem witness_PeerHoldStopsNewTransmissions : State.reset.running ∧ fallen.management.device = .reset := by
  decide +kernel

/-- No argument and the longest argument list. -/
theorem witness_CatalogueRowIsOneCommandUnit :
    State.reset.running ∧ State.reset.links.portA.reception = .none ∧ ([] : List Byte).length ≤ 252 ∧
      (List.replicate 252 (0 : Byte)).length ≤ 252 := by
  decide +kernel

/-- The shortest and the longest data. -/
theorem witness_AnswerIsOneRecordResponse :
    ([] : List Byte).length ≤ 251 ∧ (List.replicate 251 (0 : Byte)).length ≤ 251 := by
  decide +kernel

theorem witness_DeviceStateAndStagingHold :
    State.reset.running ∧ State.reset.management.device = .standby ∧ calling.management.device = .operating ∧
      (calling.channel 0).state ≠ .free ∧ ([2] : List Byte).length ≤ 252 ∧ ([3] : List Byte) ≠ [1] ∧
      ([3] : List Byte) ≠ [2] := by
  decide +kernel

theorem witness_everyContextFree : operating.management.device = .operating ∧ ∀ n, (operating.channel n).state = .free :=
  ⟨rfl, fun n => by
    simpa using every_channel operating (fun c => c.state == .free) rfl (by decide +kernel) n⟩

/-- With and without an argument and a RESTART pending; a RESTART before another byte, and the fullest response before it. -/
theorem witness_IdentifyAndRestart :
    State.reset.running ∧ State.reset.management.restart = none ∧
      ({ State.reset.management with restart := some [] } : Management).restart.isSome = true ∧
      ([0] : List Byte) ≠ [] ∧ ([] : List Byte).length = (0 : Byte).toNat ∧ ([7] : List Byte) ≠ [] ∧
      ((0x05 : Byte) :: 0 :: ([] ++ [7])).length ≤ 3 ∧ 1 + (List.replicate 247 (0 : Byte)).length + 3 ≤ 251 := by
  decide +kernel

theorem witness_OpenAcceptsLegalCall :
    operating.running ∧ (parseOpen openArgs).isSome = true ∧
      ((parseOpen openArgs).bind fun a => operating.openRefusal a) = none := by
  decide +kernel

/-- OPEN of context 0 while it is open, of highway 4, of a taken timeslot, in a full phase and of another context's label:
each condition alone; and the numbers at the edges of the argument step. -/
theorem witness_OpenRefusesInOrder :
    let crowded : State :=
      { calling with
        channels := calling.channels.map fun c => { c with state := .opened, binding := (calling.channel 0).binding } }
    let refusal (s : State) (args : List Byte) : Option Result := (parseOpen args).bind fun a => s.openRefusal a
    calling.running ∧ parseOpen [] = none ∧ parseOpen (openArgs.set 4 2) = none ∧ openArgs.length ≤ 252 ∧
      refusal State.reset openArgs = some .badState ∧ refusal calling openArgs = some .badState ∧
      refusal operating (openArgs.set 0 191) = some .labelMismatch ∧ refusal operating (openArgs.set 0 192) = some .badArgument ∧
      refusal operating (openArgs.set 1 3) = none ∧ refusal operating (openArgs.set 1 4) = some .badArgument ∧
      refusal operating (openArgs.set 2 63) = none ∧ refusal operating (openArgs.set 2 64) = some .badArgument ∧
      refusal operating (openArgs.set 3 159) = none ∧ refusal operating (openArgs.set 3 160) = some .badArgument ∧
      refusal operating (openArgs.set 8 0) = some .badArgument ∧
      refusal operating ((openArgs.set 5 0xFF).set 6 0xF0) = some .badArgument ∧
      refusal calling (openArgs.set 0 1) = some .timeslotTaken ∧
      refusal (crowded.updateChannel 1 fun c => { c with state := .free, binding := none })
        ((openArgs.set 0 1).set 2 6) = some .phaseFull ∧
      refusal calling ((openArgs.set 0 1).set 2 6) = some .labelMismatch := by
  decide +kernel

/-- A MODIFY of the open call, of contexts 191 and 192, with an empty set, and of the wrong length; flags 0x92 with their
four field bytes, and with three. -/
theorem witness_ModifyFillsPendingRecord :
    let place (i : Nat) : Nat := ((List.range i).filter fun j => (0x92 : Byte).getLsbD j).length
    ([3, 1, 0x10, 0] : List Byte).length = place 7 + (if (0x92 : Byte).getLsbD 7 then 2 else 0) ∧
      ([3, 1, 0x10] : List Byte).length ≠ place 7 + (if (0x92 : Byte).getLsbD 7 then 2 else 0) ∧
      (0x92 : Byte).getLsbD 1 = true ∧ (0x92 : Byte).getLsbD 2 = false ∧ place 1 = 0 ∧ place 4 = 1 ∧ place 7 = 2 ∧
      calling.running ∧ parseModify [0, 0x01] = none ∧ (parseModify [191, 0x00]).map ModifyArgs.context = some 191 ∧
      (parseModify [192, 0x00]).map ModifyArgs.context = some 192 ∧ (calling.channel 191).state ≠ .opened ∧
      (calling.channel 0).state = .opened ∧
      (parseModify [0, 0x01, 0xF8]).map (fun m => m.parts.allowed) =
        some (some { two := false, three := false, four := false }) ∧
      (parseModify [0, 0x01, 0x01]).map (fun m => m.parts.allowed) =
        some (some { two := true, three := false, four := false }) := by
  decide +kernel

/-- Contexts at 191 and 192, and the call open, closing and FREE. -/
theorem witness_CloseBeginsClosing :
    calling.running ∧ (192 : Byte).toNat > 191 ∧ (191 : Byte).toNat ≤ 191 ∧ (calling.channel 191).state = .free ∧
      (calling.channel 0).state = .opened ∧
      ((callingWith fun c => { c with state := .closing }).channel 0).state = .closing ∧ ([] : List Byte).length ≠ 1 := by
  decide +kernel

theorem witness_ContextReportReadsAndClears :
    calling.running ∧ (192 : Byte).toNat > 191 ∧ (191 : Byte).toNat ≤ 191 ∧ (calling.channel 191).state = .free ∧
      (calling.channel 0).state ≠ .free ∧ ([] : List Byte).length ≠ 1 := by
  decide +kernel

/-- Starts at the last entry of each table, in STANDBY; the longest run of entries. -/
theorem witness_WriteTableStoresClampedValues :
    State.reset.running ∧ State.reset.management.device = .standby ∧ (47 : Byte).toNat < 48 ∧ (31 : Byte).toNat < 32 ∧
      (5 : Byte).toNat < 6 ∧ [((0xFF : Byte), (0xFF : Byte))] ≠ [] ∧
      (List.replicate 125 ((0xFF : Byte), (0xFF : Byte))).length ≤ 125 := by
  decide +kernel

/-- The last legal window entry stands at 191, and a refused one beside it at 192. -/
theorem witness_WindowWriteStopsAtRefusedEntry :
    let w : Window := { valid := true, base := 0x4000, limit := 0x4000, first := 191 }
    State.reset.running ∧ w.base.toNat ≤ w.limit.toNat ∧ w.first ≤ 191 ∧ (31 : Byte).toNat < 32 ∧
      (List.replicate 41 w).length ≤ 41 ∧ ¬(192 : Byte).toNat ≤ 191 ∧ ¬256 * 1 + 0 ≤ 256 * 0 + 255 ∧
      (0 : Byte).toNat + [w].length < 32 ∧ ([] : List Byte).length % 6 = 0 ∧ 32 ≤ (31 : Byte).toNat + [w].length ∧
      ([2, 0, 0, 0, 0, 0] : List Byte).length = 6 ∧ 6 + ([] : List Byte).length ≤ 244 := by
  decide +kernel

/-- 9.4: at entry 31 a legal window and an illegal one past the table: one entry stored, TABLE-END. -/
theorem test_window_write_past_the_end :
    let r := cmdWriteTable [4, 31, 1, 0, 0, 0, 0, 5, 2, 0, 0, 0, 0, 0] operating
    r.result = .tableEnd ∧ r.data = [1] ∧ r.state.tables.window[31].first = 5 ∧
      r.state.management.cursor = { table := .window, index := 32 } := by
  decide +kernel

/-- From entry 0 in STANDBY, from entry 2 in OPERATING, and from entry 6 past the table's end; a write that changes entry 0
and one that leaves it; the longest write. -/
theorem witness_SettingsWriteClampsAndResupervises :
    State.reset.running ∧ State.reset.management.device = .standby ∧ operating.running ∧ 2 ≤ 6 ∧ 6 < 8 ∧
      2 = min ([1, 2, 3, 4] : List Byte).length (8 - 6) ∧ ([1, 2, 3, 4] : List Byte) ≠ [] ∧
      ([1, 2, 3, 4] : List Byte)[7 - 6]? = some 2 ∧ (List.replicate 250 (0 : Byte)).length ≤ 250 ∧
      State.reset.tables.settings[0] = min (255 : Byte).toNat 1 ∧
      State.reset.tables.settings[0] ≠ min (0 : Byte).toNat 1 := by
  decide +kernel

/-- A table that exists and numbers beside it, a start at the end, a class S write in OPERATING and both ends of a cursor. -/
theorem witness_TableWritesRefuseAndContinue :
    let atEnd : State :=
      { operating with management := { operating.management with cursor := { table := .gain, index := 32 } } }
    operating.running ∧ TableId.ofByte? 2 = some .gain ∧ TableId.ofByte? 0 = none ∧ TableId.ofByte? 6 = none ∧
      ([1] : List Byte).length < 2 ∧ TableId.gain.size ≤ (32 : Byte).toNat ∧ (31 : Byte).toNat < TableId.gain.size ∧
      ([1] : List Byte).length % TableId.gain.entryLength ≠ 0 ∧ ([1, 2] : List Byte).length % TableId.gain.entryLength = 0 ∧
      operating.management.device = .operating ∧ TableId.ofByte? 5 = some .settings ∧ (1 : Byte).toNat < 2 ∧
      atEnd.management.cursor.table = .gain ∧ atEnd.management.cursor.index = TableId.gain.size ∧
      operating.management.cursor.table = .step ∧ operating.management.cursor.index = (0 : Byte).toNat ∧
      (0 : Byte).toNat < TableId.step.size := by
  decide +kernel

theorem witness_TableReadsReturnEntries :
    operating.running ∧ TableId.ofByte? 1 = some .step ∧ (47 : Byte).toNat < TableId.step.size ∧
      TableId.step.size ≤ (48 : Byte).toNat ∧ (1 : Byte) ≠ 0 ∧ operating.management.cursor.table = .step ∧
      operating.management.cursor.index ≤ TableId.step.size ∧ ([1, 2] : List Byte).length ≠ 3 ∧
      ([6, 0, 1] : List Byte).head? = some 6 ∧ TableId.ofByte? 6 = none := by
  decide +kernel

theorem witness_ReadStatusReadsAndClears : State.reset.running ∧ ([0] : List Byte) ≠ [] := by decide +kernel

theorem witness_FlagsMaskAndNoticeWanted :
    State.reset.running ∧ ([0xFF] : List Byte).length ≤ 252 ∧ ([] : List Byte).length ≠ 1 := by
  decide +kernel

/-- A FILLED record; offsets 159 and 160, counts 1 and 255. -/
theorem witness_TraceCommands :
    let full : Trace := .filled { context := 0, point := .uplink, generation := 1 } (List.replicate 160 0)
    calling.running ∧ ([0] : List Byte).length ≠ 2 ∧ (3 : Byte) ≠ 1 ∧ (3 : Byte) ≠ 2 ∧ 191 < (192 : Byte).toNat ∧
      (191 : Byte).toNat ≤ 191 ∧ (calling.channel 191).state ≠ .opened ∧ (calling.channel 0).state = .opened ∧
      (159 : Byte).toNat ≤ 159 ∧ 159 < (160 : Byte).toNat ∧ (1 : Byte) ≠ 0 ∧ calling.trace = .idle none false ∧
      ({ calling with trace := full } : State).trace = full := by
  decide +kernel

/-- No unit's list is empty of bytes and short of turns; a length beyond the list, one that ends it, an unknown code; table
numbers 0 and 1, starts 47 and 48, offsets 159 and 160. -/
theorem witness_CommandListIsWalkedInOrder :
    ([0x03, 0x00] : List Byte).length ≤ 2 ∧ ([] : List Byte).length < (1 : Byte).toNat ∧
      ([7] : List Byte) = [7] ++ [] ∧ ([7] : List Byte).length = (1 : Byte).toNat ∧
      1 + 248 + fullRecordOf 0x03 [] State.reset > 251 ∧ 1 + 247 + fullRecordOf 0x03 [] State.reset ≤ 251 ∧
      (∀ c ∈ Command.all, c.code ≠ 0x77) ∧ Command.hold.code = 0x03 ∧ TableId.ofByte? 0 = none ∧
      TableId.ofByte? 1 = some .step ∧ (47 : Byte).toNat < TableId.step.size ∧ TableId.step.size ≤ (48 : Byte).toNat ∧
      (1 : Byte) ≠ 0 ∧ (159 : Byte).toNat ≤ 159 ∧ 159 < (160 : Byte).toNat ∧ ([0, 0] : List Byte).length < 3 ∧
      ([0] : List Byte).length < 2 := by
  decide +kernel

/-- A run of the present call ends, with the trace armed for it. -/
theorem witness_DecodeCompletionDelivers :
    let s : State := { busyWith decodeJob with trace := .armed { context := 0, point := .uplink, generation := 1 } }
    s.running ∧ s.engine.current = some (calling.startRun decodeJob) ∧ decodeJob.work.kind = .decode ∧
      decodeJob.void = false ∧ decodeJob.generation = (s.channel 0).generation ∧ (s.channel 0).state ≠ .free ∧
      calling.trace = .idle none false := by
  decide +kernel

theorem witness_EncodeCompletionDelivers :
    let s : State := { busyWith encodeJob with trace := .armed { context := 0, point := .downlink, generation := 1 } }
    s.running ∧ s.engine.current = some (calling.startRun encodeJob) ∧ encodeJob.work = .encode encodeWork ∧
      encodeJob.void = false ∧ encodeJob.generation = (s.channel 0).generation ∧ (s.channel 0).state ≠ .free ∧
      calling.trace = .idle none false := by
  decide +kernel

/-- A void run, a run of another generation, one of a FREE context, one that delivers, and an idle engine. -/
theorem witness_VoidRunsDeliverNothing :
    (busyWith { decodeJob with void := true }).running ∧ (calling.channel 0).generation ≠ 0 ∧
      (calling.channel 1).state = .free ∧ decodeJob.void = false ∧
      decodeJob.generation = (calling.channel 0).generation ∧ (calling.channel 0).state ≠ .free ∧
      decodeJob.work.kind = .decode ∧ encodeJob.work.kind = .encode ∧ calling.engine.current = none := by
  decide +kernel

theorem wellFormed_quietFrame : quietFrame.WellFormed :=
  ⟨by decide, by decide +kernel, by decide +kernel⟩

/-- Predictors and raw values that step by step follow from codes and step values, as the statements of the speech
arithmetic take them. -/
theorem reconstructions_exist (table : Vector Nat 48) (prev : Int) (steps : List (Fin 48)) (codes : List Code) :
    ∃ prior raw : Nat → Int, prior 0 = prev ∧ (∀ i, prior (i + 1) = max (-32768) (min 32767 (raw i))) ∧
      ∀ (i : Nat) (c : Code) (k : Fin 48), codes[i]? = some c → steps[i / 40]? = some k →
        raw i = (15 * prior i) >>> 4 + (if c.neg then -1 else 1) * (((2 * c.mag + 1) * table[k]) >>> 1 : Nat) := by
  let value (i : Nat) (p : Int) : Int :=
    match codes[i]?, steps[i / 40]? with
    | some c, some k => (15 * p) >>> 4 + (if c.neg then -1 else 1) * (((2 * c.mag + 1) * table[k]) >>> 1 : Nat)
    | _, _ => 0
  let prior (n : Nat) : Int := Nat.rec prev (fun i p => max (-32768) (min 32767 (value i p))) n
  refine ⟨prior, fun i => value i (prior i), rfl, fun _ => rfl, fun i c k hc hk => ?_⟩
  simp only [value, hc, hk]

/-- Runs of the three sources, with a well-formed frame and its predictors. -/
theorem witness_DecodeRunsBySource :
    (∃ prior raw : Nat → Int, prior 0 = 0 ∧ (∀ i, prior (i + 1) = max (-32768) (min 32767 (raw i))) ∧
      ∀ (i : Nat) (c : Code) (k : Fin 48), quietFrame.codes[i]? = some c → quietFrame.steps[i / 40]? = some k →
        raw i =
          (15 * prior i) >>> 4 +
            (if c.neg then -1 else 1) * (((2 * c.mag + 1) * resetStepTable[k]) >>> 1 : Nat)) ∧
      (calling.startRun decodeJob).job.work = .zero ∧
      (calling.startRun { decodeJob with work := .frame quietFrame }).job.work = .frame quietFrame ∧
      (calling.startRun { decodeJob with work := .conceal 6 quietFrame }).job.work = .conceal 6 quietFrame ∧
      quietFrame.WellFormed :=
  ⟨reconstructions_exist _ _ _ _, rfl, rfl, rfl, wellFormed_quietFrame⟩

/-- The edges of the hangover and of the refresh, and a run of each outcome. -/
theorem witness_EncodeOutcomesAndUnits :
    let e := Codec.start.encoder
    let quiet : EncoderState := { e with suppression := .suppressing }
    let r := calling.startRun encodeJob
    e.suppression = .speaking ∧ 2 + 1 < 4 ∧ 4 ≤ 3 + 1 ∧ quiet.suppression = .suppressing ∧ 22 + 1 < 24 ∧ 24 ≤ 23 + 1 ∧
      (e.outcome false true).1 = .speech ∧ (({ e with silenceRun := 3 } : EncoderState).outcome true true).1 = .silence ∧
      (quiet.outcome true true).1 = .nothing ∧ r.collected.length = 160 ∧
      (scale r.gain (r.collected.map r.job.law.expand)).samples.length = 160 := by
  decide +kernel

/-- Both ends of the sample range, and of every segment of law B. -/
theorem witness_CompandingLaws :
    inSampleRange (-32768) ∧ inSampleRange 32767 ∧ min ((-32768 : Int) / 8).natAbs 4095 = 4095 ∧
      min ((255 : Int) / 8).natAbs 4095 < 32 ∧ 2 ^ (1 + 4) ≤ min ((256 : Int) / 8).natAbs 4095 ∧
      2 ^ (7 + 4) ≤ 4095 ∧ 4095 < 2 ^ (7 + 5) ∧ 2 ^ (0 + 5) ≤ min ((0 : Int) / 4).natAbs 8158 + 33 ∧
      2 ^ (7 + 5) ≤ 8158 + 33 ∧ 8158 + 33 < 2 ^ (7 + 6) := by
  decide

theorem witness_CompandingIsStable :
    inSampleRange (-32768) ∧ inSampleRange 32767 ∧ ¬(Law.b = .b ∧ (0xFF : Byte) = 0x7F) ∧ ¬(Law.e = .b ∧ (0x7F : Byte) = 0x7F) := by
  decide

/-- 305 by 3/4 rounds to 229; a predictor at the end of the range. -/
theorem witness_GainRoundsAndSamplesStayInRange :
    ([305] : List Int)[0]? = some 305 ∧ 4096 * (229 : Int) - 2048 ≤ 305 * (3072 : Nat) ∧
      (305 : Int) * (3072 : Nat) < 4096 * 229 + 2048 ∧ inSampleRange (-32768) := by
  decide

/-- With the reset table a peak of 32768 has a sufficient step; a table of ones has none for 4. -/
theorem witness_StepChoiceIsLeastSufficient :
    32768 ≤ resetStepTable[(47 : Fin 48)] * (2 * Mode.two.levels - 1) ∧
      (∀ i : Fin 48, (Vector.replicate 48 1 : Vector Nat 48)[i] * (2 * Mode.two.levels - 1) < 4) := by
  decide +kernel

/-- 160 zeros, their predictors, their peak in the first and the last subblock, and their last code and step index. -/
theorem witness_DecoderTracksEncoder :
    let xs : List Int := List.replicate 160 0
    let e := encodeFrame resetStepTable .two 0 xs
    (∃ prior raw : Nat → Int, prior 0 = 0 ∧ (∀ i, prior (i + 1) = max (-32768) (min 32767 (raw i))) ∧
      ∀ (i : Nat) (c : Code) (k : Fin 48), e.codes[i]? = some c → e.steps[i / 40]? = some k →
        raw i =
          (15 * prior i) >>> 4 +
            (if c.neg then -1 else 1) * (((2 * c.mag + 1) * resetStepTable[k]) >>> 1 : Nat)) ∧
      xs.length = 160 ∧ (∀ i, i < 40 → ∀ x ∈ xs[40 * 3 + i]?, x.natAbs ≤ 0) ∧ xs[40 * 0 + 39]? = some 0 ∧
      xs[159]? = some 0 ∧ e.codes[159]?.isSome = true ∧ e.steps[159 / 40]?.isSome = true :=
  ⟨reconstructions_exist _ _ _ _, by decide +kernel, by decide +kernel, by decide +kernel, by decide +kernel,
    by decide +kernel, by decide +kernel⟩

/-- A payload of mode 2 of ones; its indices 0 and 3 spell 63, and codes 0 and 159 minus 1. -/
theorem witness_SpeechPayloadRoundTrip :
    let ones : List Byte := List.replicate 44 0xFF
    let bit (payload : List Byte) (k : Nat) : Bool := (payload[k / 8]?.getD 0).getMsbD (k % 8)
    quietFrame.WellFormed ∧ (header 0 1 2 44).mode.toNat = quietFrame.mode.width ∧
      quietFrame.steps[0]? = some 21 ∧ quietFrame.steps[3]? = some 5 ∧ quietFrame.codes[159]?.isSome = true ∧
      ones.length = 44 ∧
      63 = ((List.range 6).map fun k => if bit ones (6 * 3 + k) then 2 ^ (5 - k) else 0).sum ∧
      1 = ((List.range (Mode.two.width - 1)).map fun k =>
            if bit ones (24 + Mode.two.width * 159 + 1 + k) then 2 ^ (Mode.two.width - 2 - k) else 0).sum ∧
      (unpackFrame .two ones).steps = [47, 47, 47, 47] ∧
      (unpackFrame .two ones).codes[159]? = some { neg := true, mag := 1 } :=
  ⟨wellFormed_quietFrame, by decide, rfl, rfl, by decide +kernel, by decide, by decide +kernel, by decide +kernel,
    by decide +kernel, by decide +kernel⟩

/-! ### The invariants, at the open call with a command waiting -/

/-- `calling` with a command waiting that its step takes. -/
def waiting : State := { calling with pending := [.peerHoldAsserted .a] }

theorem waiting_steps : ∃ t, step waiting = .next t := ⟨_, rfl⟩

theorem waiting_other (n : Nat) (h : n ≠ 0) : waiting.channel n = Channel.atReset := by
  have hc : waiting.channels = (Vector.replicate 192 Channel.atReset).setIfInBounds 0 (calling.channel 0) := by
    decide +kernel
  unfold State.channel
  rw [hc, Vector.getElem?_setIfInBounds_ne (by omega)]
  rcases Nat.lt_or_ge n 192 with hn | hn
  · simp [hn]
  · simp [hn]

theorem waiting_all {p : Channel → Prop} (call : p (waiting.channel 0)) (other : p Channel.atReset) (n : Nat) :
    p (waiting.channel n) := by
  by_cases h : n = 0
  · subst h; exact call
  · rw [waiting_other n h]; exact other

theorem waiting_bound (n : Nat) (b : Binding) (h : (waiting.channel n).binding = some b) : n = 0 := by
  by_contra hn
  rw [waiting_other n hn] at h
  cases h

theorem bindingLaw_waiting : BindingLaw waiting := by
  refine ⟨?_, ?_, ?_, ?_⟩
  · exact waiting_all (p := fun c => c.binding.isSome = true ↔ c.state ≠ .free) (by decide +kernel) (by decide)
  · have h0 : (waiting.channel 0).binding.all (fun b => decide (b.phase < 160 ∧ 1 ≤ b.depth ∧ b.depth ≤ 6)) = true := by
      decide +kernel
    intro n b h
    have := waiting_bound n b h
    subst this
    rw [h] at h0
    simpa using h0
  · intro n m b d hb hd _ _
    rw [waiting_bound n b hb, waiting_bound m d hd]
  · intro p
    have one : waiting.channels.toArray.toList.countP (fun c => c.state != .free) = 1 := by decide +kernel
    have most := List.countP_mono_left (l := waiting.channels.toArray.toList)
      (p := fun c => c.state != .free && c.binding.any fun b => b.phase == p) (q := fun c => c.state != .free)
      (fun c _ h => (Bool.and_eq_true_iff.1 h).1)
    rw [one] at most
    exact Nat.le_trans most (by decide)

/-- A state of the transmit frame's clause, at the first and the last bit: timeslot 5 is bound to context 0, timeslots 0 and
63 to none. -/
theorem witness_TransmitFrame :
    BindingLaw waiting ∧ (waiting.channel 0).binding.map Binding.timeslot = some 5 ∧
      (waiting.channel 0).binding.map Binding.highway = some 0 ∧ (0 : Fin 512).val = 8 * (0 : Fin 64).val + 0 ∧
      (511 : Fin 512).val = 8 * (63 : Fin 64).val + 7 ∧
      ∀ n b, (waiting.channel n).binding = some b → b.highway = 0 → b.timeslot ≠ 0 ∧ b.timeslot ≠ 63 := by
  refine ⟨bindingLaw_waiting, by decide +kernel, by decide +kernel, rfl, rfl, fun n b h _ => ?_⟩
  have h0 : (waiting.channel 0).binding.all (fun b => decide (b.timeslot ≠ 0 ∧ b.timeslot ≠ 63)) = true := by
    decide +kernel
  rw [waiting_bound n b h] at h
  rw [h] at h0
  simpa using h0

theorem witness_StepKeepsContextLaws :
    (StandbyLaw waiting ∧ BindingLaw waiting ∧ ModeLaw waiting) ∧ ∃ t, step waiting = .next t := by
  refine ⟨⟨fun h => absurd h (by decide +kernel), bindingLaw_waiting, ?_⟩, waiting_steps⟩
  · refine waiting_all (p := Channel.ModeLaw) ⟨by decide +kernel, by decide +kernel, ?_⟩ ⟨by decide, by decide, ?_⟩
    · have h : (waiting.channel 0).waiting.allowed = none := by decide +kernel
      rw [h]; intro _ h; cases h
    · intro _ h; cases h

theorem witness_StepKeepsQueueAndPlayoutLaws :
    (QueueLaw waiting ∧ IdlePortLaw waiting ∧ PlayoutLaw waiting) ∧ ∃ t, step waiting = .next t := by
  refine ⟨⟨⟨?_, ?_, ?_, ?_, ?_⟩, ⟨?_, ?_, ?_⟩, ?_⟩, waiting_steps⟩
  all_goals first | decide +kernel | skip
  have empty : ∀ p : Playout, p.queue = [] → p.Law := fun p h =>
    ⟨by rw [h]; exact List.Pairwise.nil, fun e he => absurd (h ▸ he) List.not_mem_nil, fun _ => h⟩
  exact waiting_all (p := fun c => c.playout.Law) (empty _ (by decide +kernel)) (empty _ rfl)

theorem witness_StepKeepsTableAndTimingLaws :
    (TableLaw waiting ∧ TimingLaw waiting ∧ HealthListLaw waiting) ∧ ∃ t, step waiting = .next t := by
  refine ⟨⟨⟨?_, ?_, ?_, ?_, ?_, ?_⟩, ⟨?_, ?_, ?_⟩, ⟨?_, ?_⟩⟩, waiting_steps⟩
  all_goals first | decide +kernel | skip
  have due (n : Nat) : (waiting.channel n).boundaryDue = false :=
    waiting_all (p := fun c => c.boundaryDue = false) (by decide +kernel) rfl n
  intro n h
  rw [due n] at h
  cases h

theorem witness_StepKeepsJobSpeechAndCounterLaws :
    (JobLaw waiting ∧ SpeechDataLaw waiting ∧ PredictorLaw waiting ∧ CounterLaw waiting) ∧
      ∃ t, step waiting = .next t := by
  have flight : waiting.engine.inFlight = [] := by decide +kernel
  have idle : waiting.engine.current = none := by decide +kernel
  have trace : waiting.trace = .idle none false := by decide +kernel
  refine ⟨⟨⟨?_, ?_⟩, ⟨?_, ?_, ?_, ?_, ?_, ?_⟩, ⟨?_, ?_⟩, ⟨?_, ?_, ?_, ?_⟩⟩, waiting_steps⟩
  · intro r; simp [Engine.liveCount, flight]
  · rw [flight]; intro _ h; cases h
  · have empty (n : Nat) : (waiting.channel n).playout.queue = [] :=
      waiting_all (p := fun c => c.playout.queue = []) (by decide +kernel) rfl n
    intro n; rw [empty n]; intro _ h; cases h
  · have none (n : Nat) : (waiting.channel n).playout.lastGood = none :=
      waiting_all (p := fun c => c.playout.lastGood = .none) (by decide +kernel) rfl n
    intro n f; rw [none n]; intro h; cases h
  · rw [flight]; intro _ h; cases h
  · exact waiting_all
      (p := fun c => c.state ≠ .free → c.buffers.playing.length = 160 ∧ c.buffers.next.length = 160 ∧
        c.buffers.firstBank.length = 160 ∧ c.buffers.secondBank.length = 160)
      (by decide +kernel) (by decide)
  · rw [idle]; intro _ _ h; cases h
  · rw [trace]; intro _ _ h; cases h
  · exact waiting_all (p := fun c => inSampleRange c.codec.decoder ∧ inSampleRange c.codec.encoder.predictor)
      (by decide +kernel) (by decide)
  · rw [idle]; intro _ h; cases h
  · decide +kernel
  · exact waiting_all (p := fun c => ∀ k ∈ c.counters.toList, k ≤ 65535) (by decide +kernel) (by decide)
  · exact waiting_all
      (p := fun c => c.playout.primingCount ≤ 255 ∧ c.playout.lossCount ≤ 255 ∧ c.playout.health.goodRun ≤ 255 ∧
        c.playout.health.lostRun ≤ 255)
      (by decide +kernel) (by decide)
  · decide +kernel

/-! ## Worked examples on whole states, which take the kernel longest -/

/-- 2.1, 2.4: the call of timeslot 5 drives 0xD5 at a tick, bits 40 to 47; nothing drives the bits beside them. -/
theorem test_transmit_bits_of_a_call :
    let t := after (exec (.tick (tickOf (interval 512 [512]) false)) calling)
    [39, 40, 42, 48].map (t.transmitBit 0) = [none, some true, some false, none] ∧
      t.transmitBit 1 40 = none := by
  decide +kernel

/-- 10.2: the composition at a tick may come before that tick's highway transition. Highway 0 loses lock at the wrap: taken
first, HWY-LOSS is in the notice's flag byte and wants no further one; taken after, it is not, and wants the next. -/
theorem test_composition_before_and_after_a_transition :
    let s : State :=
      { State.reset with
        highway :=
          { State.reset.highway with
            frameCounter := 159,
            highways := State.reset.highway.highways.set 0 { Highway.atReset with locked := true, badCount := 7 } },
        status := { State.reset.status with flags := 0x80, mask := 0, noticeWanted := true } }
    let run (late : Bool) : State :=
      s.follow [.tick (tickOf (interval 512 []) late), .deviceCycleBoundary, .deviceCycleBoundary]
    let flagByte (t : State) : Option Byte := t.links.portA.sending.bind fun u => u.bytes[7]?
    flagByte (run false) = some 0x85 ∧ (run false).status.flags = 0x85 ∧ (run false).status.noticeWanted = false ∧
      flagByte (run true) = some 0x80 ∧ (run true).status.flags = 0x85 ∧ (run true).status.noticeWanted = true := by
  decide +kernel

/-- 9.5, command 3: entry 1 is class S, so nothing of the write is done. -/
theorem test_write_of_class_s_in_operating :
    let r := cmdWriteTable [5, 1, 0, 9] operating
    r.result = .notInStandby ∧ r.state.tables = operating.tables ∧
      r.state.management.cursor = operating.management.cursor := by
  decide +kernel

/-- 5.3: an issue that finds 32 records is refused at once, though the queue's void heads would leave it at the run's end: the
running DECODE is voided and the new one refused, and both count. -/
theorem test_issue_at_a_full_queue :
    let full : State :=
      { due with
        engine :=
          { queue := List.replicate 32 { decodeJob with context := 7, void := true },
            current := some (calling.startRun decodeJob) } }
    let t := full.follow [.contextBoundary 0 [], .voidRunEnd]
    t.engine.queue = [] ∧ t.engine.current = none ∧ (t.channel 0).counters.engineLate = 2 ∧ t.status.flags = 0x20 := by
  decide +kernel

/-- 5.3: with one place free, the order of two contexts' issues decides which finds it. -/
theorem test_order_of_issues :
    let full : State :=
      { twoDue with
        engine :=
          { queue := List.replicate 31 { decodeJob with context := 7 },
            current := some (calling.startRun { decodeJob with context := 8 }) } }
    let last (order : List JobRef) : Option JobRef :=
      (after (exec (.contextBoundary 0 order) full)).engine.queue.getLast?.map Job.ref
    last [{ context := 0, kind := .decode }, { context := 1, kind := .decode }] = some { context := 0, kind := .decode } ∧
      last [{ context := 1, kind := .decode }] = some { context := 1, kind := .decode } := by
  decide +kernel

/-- 3.1: a unit in the middle of arriving when the reset ends is abandoned uncounted; the next one is taken. -/
theorem test_unit_across_the_end_of_a_reset :
    let ended := after (exec (.resetEnd (pinsArriving true false)) (after (exec .powerUp State.reset)))
    let one := after (exec (.unitArrival .a [0]) ended)
    let two := after (exec (.unitArrival .a [0]) one)
    ended.links.portA.reception = .abandoned ∧ ended.links.portB.reception = .none ∧
      one.status.counters.checkFailuresA = 0 ∧ two.status.counters.checkFailuresA = 1 := by
  decide +kernel

/-- OPEN accepts the call of `openArgs`. -/
theorem test_open_accepts :
    (calling.channel 0).state = .opened ∧ (calling.channel 0).generation = 1 ∧
      (calling.channel 0).applied.mode = .three := by
  decide +kernel

end Sys2Proof.Machine
end

/-! Mode resolution and the mode's step (1.7). Both pick the highest or the lowest member of an allowed-mode set on one side
of a width; `Highest` and `Lowest` name these two choices, and the two functions are described by them. -/

namespace Sys2Proof.Machine

/-! ## Members of a set -/

@[simp] theorem Mode.ofNat?_width (x : Mode) : Mode.ofNat? x.width = some x := by
  cases x <;> rfl

theorem Mode.width_injective {x y : Mode} (h : x.width = y.width) : x = y :=
  Option.some.inj (by rw [← Mode.ofNat?_width x, h, Mode.ofNat?_width y])

theorem ModeSet.mem_members (set : ModeSet) (x : Mode) : x ∈ set.members ↔ set.has x = true := by
  cases x <;> simp [ModeSet.members]

theorem ModeSet.members_ascending (set : ModeSet) : set.members.Pairwise fun x y => x.width ≤ y.width :=
  List.Pairwise.filter set.has (by decide)

theorem ModeSet.exists_has {set : ModeSet} (h : set.nonempty = true) : ∃ x, set.has x = true := by
  simp only [ModeSet.nonempty, Bool.or_eq_true] at h
  obtain (two | three) | four := h
  · exact ⟨.two, two⟩
  · exact ⟨.three, three⟩
  · exact ⟨.four, four⟩

/-- The highest member whose width meets `p`. -/
structure ModeSet.Highest (set : ModeSet) (p : Nat → Prop) (x : Mode) : Prop where
  member : set.has x = true
  meets : p x.width
  bound : ∀ y, set.has y = true → p y.width → y.width ≤ x.width

/-- The lowest member whose width meets `p`. -/
structure ModeSet.Lowest (set : ModeSet) (p : Nat → Prop) (x : Mode) : Prop where
  member : set.has x = true
  meets : p x.width
  bound : ∀ y, set.has y = true → p y.width → x.width ≤ y.width

section Choice

variable {set : ModeSet} {p : Nat → Prop} [DecidablePred p] {y : Mode}

theorem ModeSet.mem_filter_members {x : Mode} :
    (x ∈ set.members.filter fun x => p x.width) ↔ set.has x = true ∧ p x.width := by
  simp [ModeSet.mem_members]

/-- The members stand lowest first, so the last of those that meet `p` is the highest of them. -/
theorem ModeSet.exists_getLast?_highest (member : set.has y = true) (meets : p y.width) :
    ∃ x, (set.members.filter fun x => p x.width).getLast? = some x ∧ set.Highest p x := by
  have ascending := set.members_ascending.filter fun x => decide (p x.width)
  have ne := List.ne_nil_of_mem (ModeSet.mem_filter_members.2 ⟨member, meets⟩)
  obtain ⟨member', meets'⟩ := ModeSet.mem_filter_members.1 (List.getLast_mem ne)
  exact ⟨_, List.getLast?_eq_some_getLast ne, member', meets', fun z hz pz =>
    ascending.rel_getLast_of_rel_getLast_getLast (ModeSet.mem_filter_members.2 ⟨hz, pz⟩) le_rfl⟩

/-- The members stand lowest first, so the first of those that meet `p` is the lowest of them. -/
theorem ModeSet.exists_head?_lowest (member : set.has y = true) (meets : p y.width) :
    ∃ x, (set.members.filter fun x => p x.width).head? = some x ∧ set.Lowest p x := by
  have ascending := set.members_ascending.filter fun x => decide (p x.width)
  have ne := List.ne_nil_of_mem (ModeSet.mem_filter_members.2 ⟨member, meets⟩)
  obtain ⟨member', meets'⟩ := ModeSet.mem_filter_members.1 (List.head_mem ne)
  exact ⟨_, List.head?_eq_some_head ne, member', meets', fun z hz pz =>
    ascending.rel_head_of_rel_head_head (ModeSet.mem_filter_members.2 ⟨hz, pz⟩) le_rfl⟩

end Choice

/-! ## Resolution (R19) -/

/-- With a member at or below `m`, the result is the highest of these. -/
theorem ModeSet.resolve_highest {set : ModeSet} {m : Nat} {y : Mode} (member : set.has y = true) (le : y.width ≤ m) :
    set.Highest (· ≤ m) (set.resolve m) := by
  obtain ⟨x, found, highest⟩ := ModeSet.exists_getLast?_highest (p := (· ≤ m)) member le
  have result : set.resolve m = x := by simp [ModeSet.resolve, found]
  exact result ▸ highest

/-- With every member above `m`, the result is the lowest member. -/
theorem ModeSet.resolve_lowest {set : ModeSet} {m : Nat} {y : Mode} (member : set.has y = true)
    (above : ∀ x, set.has x = true → m < x.width) : set.Lowest (fun _ => True) (set.resolve m) := by
  obtain ⟨x, found, lowest⟩ := ModeSet.exists_head?_lowest (p := fun _ => True) member trivial
  have none_below : (set.members.filter fun x => x.width ≤ m) = [] := by
    simpa [ModeSet.mem_members] using above
  have result : set.resolve m = x := by
    simp only [decide_true, List.filter_true] at found
    simp [ModeSet.resolve, none_below, found]
  exact result ▸ lowest

theorem ModeSet.resolve_has {set : ModeSet} (h : set.nonempty = true) (m : Nat) : set.has (set.resolve m) = true := by
  obtain ⟨y, member⟩ := ModeSet.exists_has h
  by_cases below : ∃ x, set.has x = true ∧ x.width ≤ m
  · obtain ⟨x, hx, le⟩ := below
    exact (ModeSet.resolve_highest hx le).member
  · refine (ModeSet.resolve_lowest member fun x hx => ?_).member
    exact not_le.1 fun le => below ⟨x, hx, le⟩

theorem ModeSet.resolve_of_has {set : ModeSet} {x : Mode} (h : set.has x = true) : set.resolve x.width = x := by
  have highest := ModeSet.resolve_highest h le_rfl
  exact Mode.width_injective (le_antisymm highest.meets (highest.bound x h le_rfl))

/-! ## The step toward the target (R21) -/

@[simp] theorem ModeSet.stepToward_self (set : ModeSet) (mode : Mode) : set.stepToward mode mode = mode := by
  simp [ModeSet.stepToward]

/-- With the target above, the step goes to the lowest member above the mode. -/
theorem ModeSet.stepToward_up {set : ModeSet} {mode target : Mode} (member : set.has target = true)
    (lt : mode.width < target.width) : set.Lowest (mode.width < ·) (set.stepToward mode target) := by
  obtain ⟨x, found, lowest⟩ := ModeSet.exists_head?_lowest (p := (mode.width < ·)) member lt
  have result : set.stepToward mode target = x := by simp [ModeSet.stepToward, lt, found]
  exact result ▸ lowest

/-- With the target below, the step goes to the highest member below the mode. -/
theorem ModeSet.stepToward_down {set : ModeSet} {mode target : Mode} (member : set.has target = true)
    (lt : target.width < mode.width) : set.Highest (· < mode.width) (set.stepToward mode target) := by
  obtain ⟨x, found, highest⟩ := ModeSet.exists_getLast?_highest (p := (· < mode.width)) member lt
  have result : set.stepToward mode target = x := by simp [ModeSet.stepToward, lt, lt.not_gt, found]
  exact result ▸ highest

theorem ModeSet.stepToward_has {set : ModeSet} {mode target : Mode} (hm : set.has mode = true)
    (ht : set.has target = true) : set.has (set.stepToward mode target) = true := by
  obtain up | same | down := lt_trichotomy mode.width target.width
  · exact (ModeSet.stepToward_up ht up).member
  · obtain rfl := Mode.width_injective same
    simpa using hm
  · exact (ModeSet.stepToward_down ht down).member

/-- Settles O16: a resolution is the highest member at or below the value or, with none there, the lowest member; a step goes
to the nearest member on the target's side, and the target, a member of that side, bounds it. -/
theorem modesResolveAndStep : Obligations.ModesResolveAndStep := by
  unfold Obligations.ModesResolveAndStep
  constructor
  · intro set m nonempty
    obtain ⟨y, member⟩ := ModeSet.exists_has nonempty
    refine ⟨ModeSet.resolve_has nonempty m, ?_, fun x hx below => ?_, fun above x hx => ?_⟩
    · rintro x hx rfl
      exact ModeSet.resolve_of_has hx
    · have highest := ModeSet.resolve_highest hx below.le
      exact ⟨highest.bound x hx below.le, highest.meets⟩
    · exact (ModeSet.resolve_lowest member above).bound x hx trivial
  · intro set mode target hm ht
    refine ⟨ModeSet.stepToward_has hm ht, ?_, fun up => ?_, fun down => ?_⟩
    · rintro rfl
      exact set.stepToward_self mode
    · have lowest := ModeSet.stepToward_up ht up
      exact ⟨lowest.meets, lowest.bound target ht up, lowest.bound⟩
    · have highest := ModeSet.stepToward_down ht down
      exact ⟨highest.meets, highest.bound target ht down, highest.bound⟩

end Sys2Proof.Machine

/-! Judgments of a tick (2.2). A judgment reads the highways, the tick source and the tables alone, and the work owed from the
tick before touches none of them, so `exec` judges each highway as the state before it does. -/

namespace Sys2Proof.Machine

/-! ## What the owed work leaves alone -/

@[simp] theorem State.cycleBoundary_highways (s : State) : s.cycleBoundary.highway.highways = s.highway.highways := by
  unfold State.cycleBoundary; split <;> simp

@[simp] theorem State.cycleBoundary_tickSource (s : State) :
    s.cycleBoundary.highway.tickSource = s.highway.tickSource := by
  unfold State.cycleBoundary; split <;> simp

@[simp] theorem State.finishTick_highways (s : State) : s.finishTick.highway.highways = s.highway.highways := by
  simp [State.finishTick]

@[simp] theorem State.finishTick_tickSource (s : State) : s.finishTick.highway.tickSource = s.highway.tickSource := by
  simp [State.finishTick]

/-! ## A judgment -/

/-- A tick is retimed by the highways, the tick source and the tables, and by nothing else of the state. -/
theorem State.retimed_congr {s t : State} (highways : t.highway.highways = s.highway.highways)
    (source : t.highway.tickSource = s.highway.tickSource) (tables : t.tables = s.tables)
    (inputs : Vector HighwayInput 4) : t.retimed inputs = s.retimed inputs := by
  simp only [State.retimed, State.acquiring, State.referenceHighway, highways, source, tables]

/-- A judgment reads the highways, the tick source and the tables, and nothing else of the state. -/
theorem State.judge_congr {s t : State} (highways : t.highway.highways = s.highway.highways)
    (source : t.highway.tickSource = s.highway.tickSource) (tables : t.tables = s.tables) (i : Fin 4)
    (inputs : Vector HighwayInput 4) : t.judge i inputs = s.judge i inputs := by
  unfold State.judge
  rw [State.retimed_congr highways source tables, highways, tables]

@[simp] theorem State.judge_finishTick (s : State) (i : Fin 4) (inputs : Vector HighwayInput 4) :
    s.finishTick.judge i inputs = s.judge i inputs :=
  State.judge_congr s.finishTick_highways s.finishTick_tickSource s.finishTick_tables i inputs

theorem State.judgedHighways_get (s : State) (i : Fin 4) (inputs : Vector HighwayInput 4) :
    (s.judgedHighways inputs)[i] =
      s.highway.highways[i].judged (s.judge i inputs) (lockFrames (s.tables.setting 2)) (lockFrames (s.tables.setting 3))
        inputs[i] := by
  simp [State.judgedHighways]

theorem Highway.judged_goodCount (h : Highway) (good : Bool) (nIn nOut : Nat) (input : HighwayInput) :
    (h.judged good nIn nOut input).goodCount = if good then min 255 (h.goodCount + 1) else 0 := rfl

theorem Highway.judged_badCount (h : Highway) (good : Bool) (nIn nOut : Nat) (input : HighwayInput) :
    (h.judged good nIn nOut input).badCount = if good then 0 else min 255 (h.badCount + 1) := rfl

/-! ## The highways after a tick -/

/-- In a device state other than RESET, TICK first does what is owed and then ticks. -/
theorem exec_tick {s : State} (running : s.running) (input : TickInput) :
    exec (.tick input) s = .next (s.finishTick.tick input) := by
  simp [exec, execTick, running]

@[simp] theorem State.tick_highways (s : State) (input : TickInput) :
    (s.tick input).highway.highways = s.judgedHighways input.highways := by
  unfold State.tick; split <;> rfl

/-- After a tick each highway is the one before it, judged in the state before it. -/
theorem State.finishTick_tick_highway (s : State) (input : TickInput) (i : Fin 4) :
    (s.finishTick.tick input).highway.highways[i] =
      s.highway.highways[i].judged (s.judge i input.highways) (lockFrames (s.tables.setting 2))
        (lockFrames (s.tables.setting 3)) input.highways[i] := by
  rw [State.tick_highways, State.judgedHighways_get, State.judge_finishTick, State.finishTick_highways,
    State.finishTick_tables]

/-- Settles O6: the highway after the tick is the judged one, whose two counts are read off for each judgment. -/
theorem judgmentsMoveBothCounts : Obligations.JudgmentsMoveBothCounts := by
  unfold Obligations.JudgmentsMoveBothCounts
  intro input s i running
  refine ⟨s.finishTick.tick input, exec_tick running input, ?_⟩
  rw [State.finishTick_tick_highway, Highway.judged_goodCount, Highway.judged_badCount]
  constructor
  · intro good
    simp [good]
  · intro bad
    simp [bad]

end Sys2Proof.Machine

/-! The originated queue's reservations (3.5). The room for speech is one condition, `Links.roomForSpeech`; each offer has an
equation for a queue with room and one for a queue without. -/

namespace Sys2Proof.Machine

/-! ## Room in the queue -/

/-- A SPEECH or SILENCE unit may enter: a place is left, and the two kinds have not used up their share (R55). -/
def Links.roomForSpeech (l : Links) : Prop :=
  l.originated.length < Config.originatedQueue ∧ l.speechWaiting < Config.originatedSpeech

/-- The perishable kinds are SPEECH and SILENCE. -/
theorem UnitKind.perishable_iff (kind : UnitKind) : kind.perishable = true ↔ kind = .speech ∨ kind = .silence := by
  cases kind <;> simp [UnitKind.perishable]

theorem Links.speechWaiting_eq_length_filter (l : Links) :
    l.speechWaiting = (l.originated.filter fun u => u.kind = .speech ∨ u.kind = .silence).length := by
  have same (u : QueuedUnit) : u.kind.perishable = decide (u.kind = .speech ∨ u.kind = .silence) := by
    rw [Bool.eq_iff_iff, UnitKind.perishable_iff, decide_eq_true_iff]
  simp only [Links.speechWaiting, List.countP_eq_length_filter, same]

theorem Links.roomForSpeech_iff (l : Links) :
    l.roomForSpeech ↔
      l.originated.length < 64 ∧
        (l.originated.filter fun u => u.kind = .speech ∨ u.kind = .silence).length < 60 := by
  rw [Links.roomForSpeech, Links.speechWaiting_eq_length_filter]

/-! ## The three offers -/

section Offers
variable {s : State}

theorem State.offerSpeech_of_room (room : s.links.roomForSpeech) (kind : UnitKind) (bytes : List Byte) :
    s.offerSpeech kind bytes = (s.enterOriginated kind bytes false).selectA :=
  if_pos room

theorem State.offerSpeech_of_no_room (full : ¬s.links.roomForSpeech) (kind : UnitKind) (bytes : List Byte) :
    s.offerSpeech kind bytes =
      (s.count fun c => { c with originatedDrops := min 65535 (c.originatedDrops + 1) }).raise .egressDrop :=
  if_neg full

theorem State.offerResponse_of_room (room : s.links.originated.length < 64) (bytes : List Byte) (restarts : Bool) :
    s.offerResponse bytes restarts = (s.enterOriginated .response bytes restarts).selectA :=
  if_pos room

theorem State.offerResponse_of_full (full : 64 ≤ s.links.originated.length) (bytes : List Byte) (restarts : Bool) :
    s.offerResponse bytes restarts = s.count fun c => { c with responsesLost := min 65535 (c.responsesLost + 1) } :=
  if_neg full.not_gt

theorem State.offerNotice_of_room (room : s.links.originated.length < 64) (bytes : List Byte) :
    s.offerNotice bytes = (s.enterOriginated .notice bytes false).selectA :=
  if_pos room

theorem State.offerNotice_of_full (full : 64 ≤ s.links.originated.length) (bytes : List Byte) : s.offerNotice bytes = s :=
  if_neg full.not_gt

end Offers

/-- Settles O22: with room each offer enters its unit and selects; without, each has its own loss. -/
theorem originatedQueueReservations : Obligations.OriginatedQueueReservations := by
  unfold Obligations.OriginatedQueueReservations
  constructor
  · intro s kind bytes _
    rw [← Links.roomForSpeech_iff]
    exact ⟨fun room => State.offerSpeech_of_room room kind bytes, fun full => State.offerSpeech_of_no_room full kind bytes⟩
  · intro s bytes restarts
    constructor
    · intro room
      exact ⟨State.offerResponse_of_room room bytes restarts, State.offerNotice_of_room room bytes⟩
    · intro full
      exact ⟨State.offerResponse_of_full full bytes restarts, State.offerNotice_of_full full bytes⟩

end Sys2Proof.Machine

/-! Companding (6.2). The two laws share one layout of a code byte, sign, segment and mantissa from the top; law E then
inverts every other bit of it, law B all eight. The segment is the place of the magnitude's highest bit. -/

namespace Sys2Proof.Machine

/-! ## The fields of a code byte -/

/-- A sign, a segment and a mantissa in the places they have in a code byte of either law. -/
def codeFields (s e mantissa : Nat) : Nat :=
  s * 128 + e * 16 + mantissa

section Fields
variable {s e mantissa m : Nat}

theorem toNat_ofNat_codeFields (hs : s < 2) (he : e < 8) (hm : mantissa < 16) :
    (BitVec.ofNat 8 (codeFields s e mantissa)).toNat = codeFields s e mantissa := by
  rw [BitVec.toNat_ofNat, Nat.mod_eq_of_lt]
  unfold codeFields; omega

theorem codeFields_segment (he : e < 8) (hm : mantissa < 16) : codeFields s e mantissa / 16 % 8 = e := by
  unfold codeFields; omega

theorem codeFields_mantissa (hm : mantissa < 16) : codeFields s e mantissa % 16 = mantissa := by
  unfold codeFields; omega

theorem le_codeFields_iff (hs : s < 2) (he : e < 8) (hm : mantissa < 16) : 128 ≤ codeFields s e mantissa ↔ s = 1 := by
  unfold codeFields; omega

/-! ## Expansion (R111, R113) -/

/-- Law E expands the fields of a code, whose mask 0x55 it takes off first. -/
theorem decodeE_codeFields (hs : s < 2) (he : e < 8) (hm : mantissa < 16)
    (magnitude : m = if e = 0 then 2 * mantissa + 1 else (2 * mantissa + 33) * 2 ^ (e - 1)) :
    decodeE (BitVec.ofNat 8 (codeFields s e mantissa) ^^^ 0x55) = if s = 1 then (m : Int) * 8 else -(m : Int) * 8 := by
  subst magnitude
  simp only [decodeE, BitVec.xor_assoc, BitVec.xor_self, BitVec.xor_zero, toNat_ofNat_codeFields hs he hm,
    codeFields_segment he hm, codeFields_mantissa hm, le_codeFields_iff hs he hm]

/-- Law B expands the fields of a code, which it complements first. -/
theorem decodeB_codeFields (hs : s < 2) (he : e < 8) (hm : mantissa < 16)
    (magnitude : m = (2 * mantissa + 33) * 2 ^ e - 33) :
    decodeB (~~~(BitVec.ofNat 8 (codeFields s e mantissa))) = if s = 1 then -(m : Int) * 4 else (m : Int) * 4 := by
  subst magnitude
  simp only [decodeB, BitVec.not_not, toNat_ofNat_codeFields hs he hm, codeFields_segment he hm,
    codeFields_mantissa hm, le_codeFields_iff hs he hm]

end Fields

/-! ## Companding (R110, R112) -/

theorem log2_of_segment {m k : Nat} (low : 2 ^ k ≤ m) (high : m < 2 ^ (k + 1)) : m.log2 = k :=
  (Nat.log2_eq_iff (Nat.ne_zero_of_lt (Nat.lt_of_lt_of_le (Nat.two_pow_pos k) low))).2 ⟨low, high⟩

section Encoding
variable {x : Sample} {m e : Nat}

theorem encodeE_of_lt (hm : m = min (x / 8).natAbs 4095) (small : m < 32) :
    encodeE x = BitVec.ofNat 8 (codeFields (if 0 ≤ x then 1 else 0) 0 (m / 2)) ^^^ 0x55 := by
  simp only [encodeE, codeFields, ← hm, if_pos small, ite_mul, Nat.one_mul, Nat.zero_mul, Nat.add_zero]

theorem encodeE_of_segment (hm : m = min (x / 8).natAbs 4095) (he : 1 ≤ e) (low : 2 ^ (e + 4) ≤ m)
    (high : m < 2 ^ (e + 5)) :
    encodeE x = BitVec.ofNat 8 (codeFields (if 0 ≤ x then 1 else 0) e (m / 2 ^ e % 16)) ^^^ 0x55 := by
  have large : ¬m < 32 := (Nat.le_trans (Nat.pow_le_pow_right two_pos (by omega : 5 ≤ e + 4)) low).not_gt
  simp only [encodeE, codeFields, ← hm, if_neg large, log2_of_segment low high, Nat.add_sub_cancel, ite_mul, Nat.one_mul,
    Nat.zero_mul, Nat.add_assoc]

theorem encodeB_of_segment (hm : m = min (x / 4).natAbs 8158 + 33) (low : 2 ^ (e + 5) ≤ m) (high : m < 2 ^ (e + 6)) :
    encodeB x = ~~~(BitVec.ofNat 8 (codeFields (if 0 ≤ x then 0 else 1) e (m / 2 ^ (e + 1) % 16))) := by
  simp only [encodeB, codeFields, ← hm, log2_of_segment low high, Nat.add_sub_cancel, ite_mul, Nat.one_mul, Nat.zero_mul]

/-- The clipped and biased magnitude of law B stays below 2 ^ 13, so segment 7 is its last. -/
theorem segmentB_le (hm : m = min (x / 4).natAbs 8158 + 33) (low : 2 ^ (e + 5) ≤ m) : e ≤ 7 := by
  have : e + 5 < 13 := (Nat.pow_lt_pow_iff_right Nat.one_lt_two).1 (by omega : 2 ^ (e + 5) < 2 ^ 13)
  omega

end Encoding

/-- Settles O49: the encoders by the segment's bounds, the decoders by the fields of the code. -/
theorem compandingLaws : Obligations.CompandingLaws := by
  unfold Obligations.CompandingLaws
  refine ⟨⟨?encodeE, ?decodeE⟩, ?encodeB, ?decodeB⟩
  case encodeE =>
    rintro x m _ _ hm rfl
    exact ⟨fun small => encodeE_of_lt hm small, fun e he _ low high => encodeE_of_segment hm he low high⟩
  case decodeE =>
    intro s e mantissa hs he hm m magnitude
    exact decodeE_codeFields hs he hm magnitude
  case encodeB =>
    rintro x n _ e _ hn rfl low high
    exact ⟨segmentB_le hn low, encodeB_of_segment hn low high⟩
  case decodeB =>
    intro s e mantissa hs he hm m magnitude
    exact decodeB_codeFields hs he hm magnitude

end Sys2Proof.Machine

/-! Step choice (6.8). `chooseStep` searches the indices in ascending order, so what it finds is the least sufficient one. -/

namespace Sys2Proof.Machine

/-- A search through all indices finds the least that meets the predicate. -/
theorem find?_finRange_eq_some_iff {n : Nat} {p : Fin n → Bool} {i : Fin n} :
    (List.finRange n).find? p = some i ↔ p i = true ∧ ∀ j < i, ¬p j = true := by
  rw [← List.ofFn_id]
  exact List.find?_ofFn_eq_some_of_injective Function.injective_id

section StepChoice
variable {table : Vector Nat 48} {levels peak : Nat}

theorem chooseStep_isLeast {i : Fin 48} (sufficient : peak ≤ table[i] * (2 * levels - 1)) :
    peak ≤ table[chooseStep table levels peak] * (2 * levels - 1) ∧ chooseStep table levels peak ≤ i := by
  cases found : (List.finRange 48).find? fun i => peak ≤ table[i] * (2 * levels - 1) with
  | none => exact absurd (decide_eq_true sufficient) (List.find?_eq_none.1 found i (List.mem_finRange i))
  | some j =>
    obtain rfl : chooseStep table levels peak = j := by rw [chooseStep, found]
    obtain ⟨meets, before⟩ := find?_finRange_eq_some_iff.1 found
    exact ⟨of_decide_eq_true meets, not_lt.1 fun lt => before i lt (decide_eq_true sufficient)⟩

theorem chooseStep_of_none_sufficient (short : ∀ i : Fin 48, table[i] * (2 * levels - 1) < peak) :
    chooseStep table levels peak = 47 := by
  have none_found : ((List.finRange 48).find? fun i => peak ≤ table[i] * (2 * levels - 1)) = none :=
    List.find?_eq_none.2 fun i _ meets => (short i).not_ge (of_decide_eq_true meets)
  rw [chooseStep, none_found]

end StepChoice

/-- Settles O52, for the L of each mode as for any other number of levels. -/
theorem stepChoiceIsLeastSufficient : Obligations.StepChoiceIsLeastSufficient := by
  unfold Obligations.StepChoiceIsLeastSufficient
  exact fun _ _ _ => ⟨fun _ => chooseStep_isLeast, chooseStep_of_none_sufficient⟩

end Sys2Proof.Machine

/-! The CRC-8 (6.9), a byte at a time: each byte is exclusive-ored into the register, and the register steps as from 0. -/

namespace Sys2Proof.Machine

theorem crc8_concat (m : List Byte) (b : Byte) : crc8 (m ++ [b]) = crc8 [crc8 m ^^^ b] := by
  calc crc8 (m ++ [b]) = crcByte (crc8 m) b := crc8_append m [b]
    _ = crc8 [crc8 m ^^^ b] := crcByte_eq (crc8 m) b

/-- The CRC is linear in a single byte. -/
theorem crc8_singleton_xor (a b : Byte) : crc8 [a ^^^ b] = crc8 [a] ^^^ crc8 [b] :=
  crcByte_xor 0 0 a b

theorem crc8_singleton_zero : crc8 [0] = 0 := by decide

/-- Its own CRC brings the register to 0. -/
theorem crc8_concat_crc8 (m : List Byte) : crc8 (m ++ [crc8 m]) = 0 := by
  rw [crc8_concat, BitVec.xor_self]
  exact crc8_singleton_zero

/-- A leading zero leaves the register at its start value. -/
theorem crc8_zero_cons (m : List Byte) : crc8 (0 :: m) = crc8 m := by
  calc crc8 (0 :: m) = m.foldl crcByte (crc8 [0]) := crc8_append [0] m
    _ = crc8 m := by rw [crc8_singleton_zero, crc8]

/-- Settles O54: the byte rules above, and the eight single-bit values by evaluation. -/
theorem crcOfBytesAndBits : Obligations.CrcOfBytesAndBits := by
  unfold Obligations.CrcOfBytesAndBits
  refine ⟨rfl, crc8_concat, crc8_singleton_xor, ?_, ?_, ?_, ?_, ?_, ?_, ?_, ?_, crc8_concat_crc8, crc8_zero_cons⟩
  all_goals decide

end Sys2Proof.Machine

/-! What a step is made of. `Operation` is one shared operation of the commands, with what is known where it is used;
`exec_reaches` takes every command apart into such operations, once for all laws of the state. -/

namespace Sys2Proof.Machine

/-! ## The shared operations -/

/-- No device counter passes its limit (R64). -/
def DeviceCounters.Limited (c : DeviceCounters) : Prop :=
  ∀ k ∈ c.toList, k ≤ 65535

/-- One operation takes `s` to the second state. Beside the clauses of `Keeps` it says that a count keeps the limits of the
counters, that the frame of an arrival is well formed, and how a run ended. -/
inductive Operation (s : State) : State → Prop
  | pending (q : List Instr) : Operation s { s with pending := q }
  | beginReset : Operation s s.beginReset
  | resetPin (b : Bool) : Operation s { s with management := { s.management with resetN := b } }
  | endReset (pins : ResetPins) : Operation s (s.endReset pins)
  | advance (inputs : Vector HighwayInput 4) (settled : s.Settled) : Operation s (s.advance inputs)
  | transitions : Operation s s.takeTransitions
  | cycleAdvance :
      Operation s
        { s with highway := { s.highway with cycleDue := false, cycleCounter := s.highway.cycleCounter + 1 } }
  | noticeTaken : Operation s { s with status := { s.status with noticeWanted := false, healthChanged := [] } }
  | openBoundary (n : Nat) (b : Binding) (state : (s.channel n).state = .opened)
      (bound : (s.channel n).binding = some b) : Operation s (s.openBoundary n b)
  | closeBoundary (n : Nat) (state : (s.channel n).state = .closing) : Operation s (s.closeBoundary n)
  | noBoundary (n : Nat) : Operation s (s.setChannel n { s.channel n with boundaryDue := false })
  | issueJob (j : Job) (issuable : s.Issuable j) : Operation s (s.issueJob j)
  | count (f : DeviceCounters → DeviceCounters) (limited : ∀ c, c.Limited → (f c).Limited) : Operation s (s.count f)
  | endReception (port : Port) : Operation s (s.endReception port)
  | offerAToB (bytes : List Byte) (running : s.running) : Operation s (s.offerAToB bytes)
  | offerBToA (bytes : List Byte) (running : s.running) : Operation s (s.offerBToA bytes)
  | offerNotice (bytes : List Byte) (running : s.running) : Operation s (s.offerNotice bytes)
  | respond (seq : Byte) (payload : List Byte) (restart : Bool) (running : s.running) :
      Operation s (s.respond seq payload restart)
  | arrive (n : Nat) (seq : Byte) (body : EntryBody) (request quality : BitVec 4)
      (state : (s.channel n).state = .opened) (frame : ∀ f, body.frame? = some f → f.WellFormed) :
      Operation s (s.updateChannel n fun c => c.arrive seq body request quality)
  | holdPin (port : Port) (level : Bool) (waits : level = true ∨ s.management.device = .reset) :
      Operation s (s.withHold port level)
  | holdReleased (port : Port) (running : s.running) : Operation s ((s.withHold port false).select port)
  | completeA (sent : Sending) (running : s.running) : Operation s (s.completeA sent)
  | completeB (running : s.running) : Operation s s.completeB
  | deliverDecode (r : Run) (running : s.running) (current : s.engine.current = some r)
      (kind : r.job.work.kind = .decode) (delivers : s.delivers r.job = true) : Operation s (s.deliverDecode r)
  | deliverEncode (r : Run) (w : EncodeWork) (running : s.running) (current : s.engine.current = some r)
      (work : r.job.work = .encode w) (delivers : s.delivers r.job = true) : Operation s (s.deliverEncode r w)
  | endRun (r : Run) (current : s.engine.current = some r) : Operation s s.endRun
  | standby (running : s.running) (free : s.management.device = .operating → s.allFree = true) :
      Operation s (s.withDevice .standby)
  | operating (running : s.running) : Operation s (s.withDevice .operating)
  | stagingHold (b : Bool) : Operation s { s with stagingHold := b }
  | opened (a : OpenArgs) (accepted : s.openRefusal a = none) :
      Operation s (s.updateChannel a.context fun c => c.opened a)
  | modified (n : Nat) (p : PendingRecord) (state : (s.channel n).state = .opened)
      (nonempty : ∀ set, p.allowed = some set → set.nonempty = true) :
      Operation s (s.updateChannel n fun c => { c with waiting := c.waiting.merge p })
  | closed (n : Nat) (state : (s.channel n).state = .opened) :
      Operation s (s.updateChannel n fun c => { c with state := .closing })
  | reported (n : Nat) :
      Operation s
        (s.updateChannel n fun c =>
          { c with counters := ContextCounters.zero, playout := { c.playout with minQuality := 15 } })
  | writeEntry (id : TableId) (i : Nat) (bytes : List Byte) (t : State) (written : s.writeEntry id i bytes = some t) :
      Operation s t
  | cursor (id : TableId) (i : Nat)
      (inTable : i ≤ id.size ∨ (id = s.management.cursor.table ∧ i = s.management.cursor.index)) :
      Operation s (s.withCursor id i)
  | status (flags mask : Byte) : Operation s { s with status := { s.status with flags := flags, mask := mask } }
  | traceArmed (n : Nat) (p : TracePoint) :
      Operation s
        { s with trace := .armed { context := n, point := p, generation := (s.channel n).generation } }

/-- Operations one after another. -/
abbrev Reaches : State → State → Prop :=
  Relation.ReflTransGen Operation

/-- A property that every operation keeps is kept by operations one after another. -/
theorem Reaches.keeps {P : State → Prop} (k : ∀ s t, Operation s t → P s → P t) {s t : State} (h : Reaches s t) (p : P s) :
    P t := by
  induction h with
  | refl => exact p
  | tail _ op ih => exact k _ _ op ih

/-! ## Counts -/

theorem countUp_le (c k : Nat) : countUp c k ≤ 65535 :=
  Nat.min_le_left _ _

theorem DeviceCounters.limited_iff (c : DeviceCounters) :
    c.Limited ↔
      c.checkFailuresA ≤ 65535 ∧ c.checkFailuresB ≤ 65535 ∧ c.unclaimed ≤ 65535 ∧ c.badKind ≤ 65535 ∧
        c.malformed ≤ 65535 ∧ c.closedContext ≤ 65535 ∧ c.aToBDrops ≤ 65535 ∧ c.bToADrops ≤ 65535 ∧
        c.originatedDrops ≤ 65535 ∧ c.stale ≤ 65535 ∧ c.responsesLost ≤ 65535 ∧ c.originatedSent ≤ 65535 := by
  simp [DeviceCounters.Limited, DeviceCounters.toList]

theorem DeviceCounters.limited_zero : DeviceCounters.zero.Limited :=
  (DeviceCounters.limited_iff _).2 (by decide)

theorem reaches_countMalformed (s : State) : Reaches s s.countMalformed :=
  .single (.count _ fun c h => by simp_all [DeviceCounters.limited_iff, countUp_le])

theorem reaches_countUnclaimed (s : State) : Reaches s s.countUnclaimed :=
  .single (.count _ fun c h => by simp_all [DeviceCounters.limited_iff, countUp_le])

theorem reaches_countBadKind (s : State) : Reaches s s.countBadKind :=
  .single (.count _ fun c h => by simp_all [DeviceCounters.limited_iff, countUp_le])

theorem reaches_countClosedContext (s : State) : Reaches s s.countClosedContext :=
  .single (.count _ fun c h => by simp_all [DeviceCounters.limited_iff, countUp_le])

theorem reaches_countCheckFailure (s : State) (port : Port) : Reaches s (s.countCheckFailure port) := by
  cases port with
  | a =>
    refine .single (.count (fun c => { c with checkFailuresA := countUp c.checkFailuresA 1 }) fun c h => ?_)
    simp_all [DeviceCounters.limited_iff, countUp_le]
  | b =>
    refine .single (.count (fun c => { c with checkFailuresB := countUp c.checkFailuresB 1 }) fun c h => ?_)
    simp_all [DeviceCounters.limited_iff, countUp_le]

/-! ## The commands of a list -/

/-- What a command of a list leaves: a state reached, and a device state other than RESET. -/
def Reply.ReachedFrom (s : State) (r : Reply) : Prop :=
  Reaches s r.state ∧ r.state.running

theorem Reply.reached_refuse {s : State} (running : s.running) (result : Result) : (Reply.refuse s result).ReachedFrom s :=
  ⟨.refl, running⟩

theorem Reply.reached_ok {s t : State} (op : Operation s t) (running : t.running) (data : List Byte) :
    (Reply.ok t data).ReachedFrom s :=
  ⟨.single op, running⟩

/-- A run of writes leaves the management record, and rests where it began or within the table. -/
theorem reaches_writeEntries (id : TableId) (entries : List (List Byte)) (i : Nat) (s : State) :
    Reaches s (State.writeEntries id entries i s).state ∧
      (State.writeEntries id entries i s).state.management = s.management ∧
      ((State.writeEntries id entries i s).index ≤ id.size ∨ (State.writeEntries id entries i s).index = i) := by
  induction entries generalizing i s with
  | nil => exact ⟨.refl, rfl, .inr rfl⟩
  | cons e es ih =>
    unfold State.writeEntries
    split
    · exact ⟨.refl, rfl, .inr rfl⟩
    · split
      · exact ⟨.refl, rfl, .inr rfl⟩
      · rename_i hi t written
        obtain ⟨reached, management, index⟩ := ih (i + 1) t
        exact ⟨.head (.writeEntry _ _ _ _ written) reached, management.trans (State.writeEntry_management written),
          .inl (by omega)⟩

section Table
variable {s : State} {id : TableId} {start : Nat} (running : s.running)
  (inTable : start ≤ id.size ∨ (id = s.management.cursor.table ∧ start = s.management.cursor.index))
include running inTable

theorem State.writeFrom_reached (entries : List (List Byte)) : (s.writeFrom id start entries).ReachedFrom s := by
  unfold State.writeFrom
  split
  · exact Reply.reached_refuse running _
  · obtain ⟨reached, management, index⟩ := reaches_writeEntries id entries start s
    refine ⟨.tail reached (.cursor _ _ ?_), ?_⟩
    · rw [management]
      rcases index with index | index
      · exact .inl index
      · rw [index]; exact inTable
    · simp only [State.running, State.withCursor, management]; exact running

theorem State.readFrom_reached (count : Nat) : (s.readFrom id start count).ReachedFrom s := by
  refine ⟨.single (.cursor _ _ ?_), running⟩
  unfold readCount
  rcases inTable with inTable | ⟨table, index⟩
  · left; omega
  · by_cases within : start ≤ id.size
    · left; omega
    · right; exact ⟨table, by omega⟩

end Table

theorem DeviceState.ofByte?_ne_reset {b : Byte} {d : DeviceState} (h : DeviceState.ofByte? b = some d) :
    d = .standby ∨ d = .operating := by
  unfold DeviceState.ofByte? at h
  split at h
  · cases h; exact .inl rfl
  · split at h <;> cases h
    exact .inr rfl

theorem cmdSetState_reached {s : State} (running : s.running) (args : List Byte) : (cmdSetState args s).ReachedFrom s := by
  unfold cmdSetState
  split
  · split
    · split
      · exact Reply.reached_refuse running _
      · rename_i free
        exact Reply.reached_ok (.standby running fun operating => by_contra fun h => free ⟨operating, h⟩)
          (by simp [State.running, State.withDevice]) _
    · rename_i d other known
      obtain rfl : d = .operating := (DeviceState.ofByte?_ne_reset known).resolve_left other
      exact Reply.reached_ok (.operating running) (by simp [State.running, State.withDevice]) _
    · exact Reply.reached_refuse running _
  · exact Reply.reached_refuse running _

theorem cmdRestart_reached {s : State} (running : s.running) (last : Bool) (args : List Byte) :
    (cmdRestart last args s).ReachedFrom s := by
  unfold cmdRestart
  split
  · exact Reply.reached_refuse running _
  · split
    · exact Reply.reached_refuse running _
    · split
      · exact Reply.reached_refuse running _
      · exact ⟨.refl, running⟩

theorem cmdOpen_reached {s : State} (running : s.running) (args : List Byte) : (cmdOpen args s).ReachedFrom s := by
  unfold cmdOpen
  split
  · exact Reply.reached_refuse running _
  · split
    · exact Reply.reached_refuse running _
    · exact Reply.reached_ok (.opened _ ‹_›) running _

theorem cmdModify_reached {s : State} (running : s.running) (args : List Byte) : (cmdModify args s).ReachedFrom s := by
  unfold cmdModify
  split
  · exact Reply.reached_refuse running _
  · split
    · exact Reply.reached_refuse running _
    · split
      · exact Reply.reached_refuse running _
      · split
        · exact Reply.reached_refuse running _
        · rename_i state nonempty
          refine Reply.reached_ok (.modified _ _ (by simpa using state) fun set present => ?_) running _
          simpa [present] using nonempty

theorem cmdClose_reached {s : State} (running : s.running) (args : List Byte) : (cmdClose args s).ReachedFrom s := by
  unfold cmdClose
  split
  · split
    · exact Reply.reached_refuse running _
    · split
      · exact Reply.reached_refuse running _
      · exact Reply.reached_ok (.closed _ ‹_›) running _
      · exact ⟨.refl, running⟩
  · exact Reply.reached_refuse running _

theorem cmdContextReport_reached {s : State} (running : s.running) (args : List Byte) :
    (cmdContextReport args s).ReachedFrom s := by
  unfold cmdContextReport
  split
  · split
    · exact Reply.reached_refuse running _
    · split
      · exact Reply.reached_refuse running _
      · exact Reply.reached_ok (.reported _) running _
  · exact Reply.reached_refuse running _

theorem cmdWriteTable_reached {s : State} (running : s.running) (args : List Byte) :
    (cmdWriteTable args s).ReachedFrom s := by
  unfold cmdWriteTable
  split
  · split
    · exact Reply.reached_refuse running _
    · split
      · exact Reply.reached_refuse running _
      · split
        · exact Reply.reached_refuse running _
        · exact State.writeFrom_reached running (.inl (by omega)) _
  · exact Reply.reached_refuse running _

theorem cmdWriteNext_reached {s : State} (running : s.running) (args : List Byte) :
    (cmdWriteNext args s).ReachedFrom s := by
  unfold cmdWriteNext
  split
  · exact Reply.reached_refuse running _
  · exact State.writeFrom_reached running (.inr ⟨rfl, rfl⟩) _

theorem readTableArgs?_eq_some {t start count : Byte} {id : TableId} {i n : Nat} :
    readTableArgs? t start count = some (id, i, n) ↔
      TableId.ofByte? t = some id ∧ start.toNat < id.size ∧ count ≠ 0 ∧ i = start.toNat ∧ n = count.toNat := by
  unfold readTableArgs?
  cases TableId.ofByte? t with
  | none => simp
  | some id' => simp only [Option.ite_none_right_eq_some, Option.some.injEq, Prod.mk.injEq]; grind

theorem cmdReadTable_reached {s : State} (running : s.running) (args : List Byte) :
    (cmdReadTable args s).ReachedFrom s := by
  unfold cmdReadTable
  split
  · split
    · exact Reply.reached_refuse running _
    · rename_i known
      obtain ⟨-, below, -, rfl, -⟩ := readTableArgs?_eq_some.1 known
      exact State.readFrom_reached running (.inl below.le) _
  · exact Reply.reached_refuse running _

theorem cmdReadNext_reached {s : State} (running : s.running) (args : List Byte) :
    (cmdReadNext args s).ReachedFrom s := by
  unfold cmdReadNext
  split
  · split
    · exact Reply.reached_refuse running _
    · exact State.readFrom_reached running (.inr ⟨rfl, rfl⟩) _
  · exact Reply.reached_refuse running _

theorem cmdTraceArm_reached {s : State} (running : s.running) (args : List Byte) :
    (cmdTraceArm args s).ReachedFrom s := by
  unfold cmdTraceArm
  split
  · split
    · exact Reply.reached_refuse running _
    · split
      · exact Reply.reached_refuse running _
      · split
        · exact Reply.reached_refuse running _
        · exact Reply.reached_ok (.traceArmed _ _) running _
  · exact Reply.reached_refuse running _

theorem cmdTraceRead_reached {s : State} (running : s.running) (args : List Byte) :
    (cmdTraceRead args s).ReachedFrom s := by
  unfold cmdTraceRead
  split
  · split
    · exact Reply.reached_refuse running _
    · split
      · exact ⟨.refl, running⟩
      · exact Reply.reached_refuse running _
  · exact Reply.reached_refuse running _

/-- A command refused or, its arguments right, made of one operation. -/
theorem reached_ite {s t : State} {p : Prop} [Decidable p] (running : s.running) (op : Operation s t) (still : t.running)
    (data : List Byte) (result : Result) : (if p then Reply.ok t data else Reply.refuse s result).ReachedFrom s := by
  split
  · exact Reply.reached_ok op still data
  · exact Reply.reached_refuse running result

theorem Command.run_reached {s : State} (running : s.running) (c : Command) (last : Bool) (args : List Byte) :
    (c.run last args s).ReachedFrom s := by
  cases c with
  | identify =>
    show (cmdIdentify args s).ReachedFrom s
    unfold cmdIdentify
    split
    · exact ⟨.refl, running⟩
    · exact Reply.reached_refuse running _
  | setState => exact cmdSetState_reached running args
  | hold => exact reached_ite running (.stagingHold true) running [] _
  | release => exact reached_ite running (.stagingHold false) running [] _
  | restart => exact cmdRestart_reached running last args
  | openCall => exact cmdOpen_reached running args
  | modify => exact cmdModify_reached running args
  | close => exact cmdClose_reached running args
  | contextReport => exact cmdContextReport_reached running args
  | writeTable => exact cmdWriteTable_reached running args
  | writeNext => exact cmdWriteNext_reached running args
  | readTable => exact cmdReadTable_reached running args
  | readNext => exact cmdReadNext_reached running args
  | readStatus =>
    exact reached_ite running (.count _ fun _ _ => DeviceCounters.limited_zero) running s.statusData _
  | clearFlags =>
    show (cmdClearFlags args s).ReachedFrom s
    unfold cmdClearFlags
    split
    · exact ⟨.single (.status _ s.status.mask), running⟩
    · exact Reply.reached_refuse running _
  | setNoticeMask =>
    show (cmdSetNoticeMask args s).ReachedFrom s
    unfold cmdSetNoticeMask
    split
    · exact ⟨.single (.status s.status.flags _), running⟩
    · exact Reply.reached_refuse running _
  | traceArm => exact cmdTraceArm_reached running args
  | traceRead => exact cmdTraceRead_reached running args

theorem runCommands_reached (turns position : Nat) (bytes : List Byte) (r : ListRun) (running : r.state.running) :
    Reaches r.state (runCommands turns position bytes r).state ∧ (runCommands turns position bytes r).state.running := by
  have malformed (code : Byte) : Reaches r.state (r.endMalformed code).state ∧ (r.endMalformed code).state.running :=
    ⟨reaches_countMalformed r.state, running⟩
  induction turns generalizing position bytes r with
  | zero => exact ⟨.refl, running⟩
  | succ turns ih =>
    unfold runCommands
    split
    · exact ⟨.refl, running⟩
    · exact malformed _
    · split
      · exact malformed _
      · split
        · exact ⟨.refl, running⟩
        · rename_i code len rest _ _
          have command (last : Bool) : Reaches r.state (r.command code (rest.take len.toNat) last).state ∧
              (r.command code (rest.take len.toNat) last).state.running := by
            unfold ListRun.command
            split
            · exact ⟨.refl, running⟩
            · exact Command.run_reached running _ _ _
          obtain ⟨reached, still⟩ := command (rest.drop len.toNat).isEmpty
          obtain ⟨reached', still'⟩ := ih (position + 1) (rest.drop len.toNat) _ still
            fun _ => ⟨reaches_countMalformed _, still⟩
          exact ⟨reached.trans reached', still'⟩

theorem control_reached {s : State} (running : s.running) (seq : Byte) (payload : List Byte) :
    Reaches s (s.control seq payload) := by
  unfold State.control
  split
  · exact reaches_countMalformed s
  · rename_i tag list
    obtain ⟨reached, still⟩ :=
      runCommands_reached list.length 1 list { state := s, records := [], restart := false } running
    exact .tail reached (.respond _ _ _ still)

/-! ## Boundaries and ticks -/

theorem issueJobs_reached (jobs : List Job) (s : State) (issuable : ∀ j ∈ jobs, s.Issuable j) :
    Reaches s (s.issueJobs jobs) := by
  unfold State.issueJobs
  induction jobs generalizing s with
  | nil => exact .refl
  | cons j js ih =>
    exact .head (.issueJob j (issuable j (by simp)))
      (ih _ fun i hi => (issuable i (List.mem_cons_of_mem _ hi)).issueJob j)

theorem boundary_reached (s : State) (n : Nat) : Reaches s (s.boundary n) := by
  unfold State.boundary
  dsimp only
  split
  · split
    · exact .single (.openBoundary _ _ ‹_› ‹_›)
    · exact .single (.closeBoundary _ ‹_›)
    · exact .single (.noBoundary _)
  · exact .refl

theorem foldl_boundary_reached (l : List Nat) (s : State) : Reaches s (l.foldl State.boundary s) := by
  induction l generalizing s with
  | nil => exact .refl
  | cons m l ih => exact (boundary_reached s m).trans (ih _)

theorem contextBoundary_reached (s : State) (n : Nat) (order : List JobRef) : Reaches s (s.contextBoundary n order) := by
  unfold State.contextBoundary State.takeBoundaries
  refine (foldl_boundary_reached _ s).trans (issueJobs_reached _ _ fun j hj => ?_)
  obtain ⟨m, hm, hjm⟩ := List.mem_flatMap.1 ((mem_orderJobs _ _ _).1 hj)
  exact State.foldl_boundary_issuable ((contextsNamed_ascending n order).imp Nat.ne_of_lt) s hm hjm

theorem boundaries_reached (s : State) : Reaches s s.boundaries := by
  unfold State.boundaries
  generalize List.range Config.contexts = l
  induction l generalizing s with
  | nil => exact .refl
  | cons n ns ih => exact (contextBoundary_reached s n []).trans (ih _)

theorem cycleBoundary_reached {s : State} (running : s.running) : Reaches s s.cycleBoundary := by
  unfold State.cycleBoundary
  split
  · refine .head .cycleAdvance ?_
    unfold State.composeNotice
    split
    · exact .head .noticeTaken (.single (.offerNotice _ running))
    · exact .refl
  · exact .single .transitions

theorem finishTick_reached {s : State} (running : s.running) : Reaches s s.finishTick :=
  ((cycleBoundary_reached running).trans (boundaries_reached _)).trans
    (cycleBoundary_reached (by simpa [State.running] using running))

theorem tick_reached {s : State} (running : s.running) (input : TickInput) : Reaches s (s.finishTick.tick input) := by
  have advanced : Operation s.finishTick (s.finishTick.advance input.highways) := .advance _ s.finishTick_settled
  unfold State.tick
  split
  · exact .tail (finishTick_reached running) advanced
  · exact .tail (.tail (finishTick_reached running) advanced) .transitions

/-! ## Arrivals -/

theorem readSteps_length (count : Nat) (bits : List Bool) : (readSteps count bits).length = count := by
  induction count generalizing bits with
  | zero => rfl
  | succ count ih => simp [readSteps, ih]

theorem readCodes_length (width count : Nat) (bits : List Bool) : (readCodes width count bits).length = count := by
  induction count generalizing bits with
  | zero => rfl
  | succ count ih => simp [readCodes, ih]

/-- A run of bits spells a number below the power of its length. -/
theorem bitsNat_lt (bits : List Bool) : bitsNat bits < 2 ^ bits.length := by
  have bound (l : List Bool) (acc : Nat) : l.foldl (fun acc b => 2 * acc + b.toNat) acc < (acc + 1) * 2 ^ l.length := by
    induction l generalizing acc with
    | nil => simp
    | cons b l ih =>
      have next : 2 * acc + b.toNat + 1 ≤ (acc + 1) * 2 := by cases b <;> simp <;> omega
      calc _ < (2 * acc + b.toNat + 1) * 2 ^ l.length := ih _
        _ ≤ (acc + 1) * 2 * 2 ^ l.length := Nat.mul_le_mul_right _ next
        _ = (acc + 1) * 2 ^ (b :: l).length := by rw [List.length_cons, Nat.pow_succ']; ring
  simpa [bitsNat] using bound bits 0

theorem readCodes_magnitudes (width count : Nat) (bits : List Bool) :
    ∀ c ∈ readCodes width count bits, c.mag < 2 ^ (width - 1) := by
  induction count generalizing bits with
  | zero => intro c hc; cases hc
  | succ count ih =>
    intro c hc
    rcases List.mem_cons.1 hc with rfl | hc
    · refine Nat.lt_of_lt_of_le (bitsNat_lt _) (Nat.pow_le_pow_right two_pos ?_)
      simp only [List.length_drop, List.length_take]; omega
    · exact ih _ c hc

/-- Every frame that is unpacked is well formed, whatever the payload. -/
theorem unpackFrame_wellFormed (mode : Mode) (payload : List Byte) : (unpackFrame mode payload).WellFormed where
  steps := readSteps_length _ _
  codes := readCodes_length _ _ _
  magnitudes := readCodes_magnitudes _ _ _

theorem classify_frame {kind : UnitKind} {h : Header} {payload : List Byte} {f : Frame}
    (speech : (classify kind h payload).frame? = some f) : f.WellFormed := by
  unfold classify at speech
  split at speech
  · cases speech
  · split at speech
    · cases speech
    · split at speech
      · simp only [EntryBody.frame?, Option.some.injEq] at speech
        exact speech ▸ unpackFrame_wellFormed _ _
      · cases speech

theorem deliverUnit_reached (s : State) (n : Nat) (kind : UnitKind) (h : Header) (payload : List Byte) :
    Reaches s (s.deliverUnit n kind h payload) := by
  unfold State.deliverUnit
  split
  · exact .single (.arrive _ _ _ _ _ ‹_› fun f => classify_frame)
  · exact reaches_countClosedContext s

theorem routeClaimed_reached (s : State) (n : Nat) (h : Header) (payload : List Byte) :
    Reaches s (s.routeClaimed n h payload) := by
  unfold State.routeClaimed
  split
  · exact reaches_countUnclaimed s
  · split
    · exact deliverUnit_reached _ _ _ _ _
    · exact deliverUnit_reached _ _ _ _ _
    · exact reaches_countBadKind s

theorem routeA_reached {s : State} (running : s.running) (bytes : List Byte) (h : Header) (payload : List Byte) :
    Reaches s (s.routeA bytes h payload) := by
  unfold State.routeA
  split
  · unfold State.routeManagement
    split
    · exact control_reached running _ _
    · exact reaches_countBadKind s
  · split
    · unfold State.routeForeign
      split
      · exact reaches_countUnclaimed s
      · exact .single (.offerAToB _ running)
    · exact routeClaimed_reached _ _ _ _

theorem arrive_reached {s : State} (running : s.running) (port : Port) (bytes : List Byte) :
    Reaches s (s.arrive port bytes) := by
  unfold State.arrive
  split
  · exact .single (.endReception _)
  · unfold State.takeUnit
    split
    · exact reaches_countCheckFailure s port
    · cases port with
      | a => exact routeA_reached running _ _ _
      | b => exact .single (.offerBToA _ running)

/-! ## The ends of a run -/

theorem Work.kind_eq_encode {w : Work} : w.kind = .encode ↔ ∃ e, w = .encode e := by
  cases w <;> simp [Work.kind]

theorem Work.kind_eq_decode {w : Work} : w.kind = .decode ↔ ∀ e, w ≠ .encode e := by
  cases w <;> simp [Work.kind]

theorem completeDecode_reached {s : State} (running : s.running) : Reaches s s.completeDecode := by
  unfold State.completeDecode
  split
  · rename_i r current
    split
    · exact .refl
    · rename_i decode
      split
      · exact .single (.deliverDecode r running current (Work.kind_eq_decode.2 fun w => decode w) ‹_›)
      · exact .single (.endRun r current)
  · exact .refl

theorem completeEncode_reached {s : State} (running : s.running) : Reaches s s.completeEncode := by
  unfold State.completeEncode
  split
  · rename_i r current
    split
    · split
      · exact .single (.deliverEncode r _ running current ‹_› ‹_›)
      · exact .single (.endRun r current)
    · exact .refl
  · exact .refl

theorem endVoid_reached (s : State) : Reaches s s.endVoid := by
  unfold State.endVoid
  split
  · split
    · exact .refl
    · exact .single (.endRun _ ‹_›)
  · exact .refl

/-! ## Every command -/

/-- A command that does nothing in RESET. -/
theorem reached_unless_reset {s t u : State}
    (h : (if s.management.device = .reset then .next s else .next u : Host.Outcome State Fault Refusal) = .next t)
    (reached : s.running → Reaches s u) : Reaches s t := by
  split at h <;> cases h
  · exact .refl
  · exact reached ‹_›

theorem exec_reaches (i : Instr) (s t : State) (h : exec i s = .next t) : Reaches s t := by
  cases i with
  | powerUp => cases h; exact .single .beginReset
  | pinReset => cases h; exact .tail (.single .beginReset) (.resetPin false)
  | resetEnd pins =>
    change execResetEnd pins s = _ at h
    unfold execResetEnd at h
    split at h <;> injection h with h <;> subst h
    · exact .single (.endReset pins)
    · exact .refl
  | tick input => exact reached_unless_reset h fun running => tick_reached running input
  | deviceCycleBoundary => exact reached_unless_reset h cycleBoundary_reached
  | contextBoundary n order => exact reached_unless_reset h fun _ => contextBoundary_reached s n order
  | unitArrival port bytes => exact reached_unless_reset h fun running => arrive_reached running port bytes
  | peerHoldAsserted port => cases h; exact .single (.holdPin port true (.inl rfl))
  | peerHoldReleased port =>
    change execPeerHoldReleased port s = _ at h
    unfold execPeerHoldReleased at h
    split at h <;> cases h
    · exact .single (.holdPin port false (.inr ‹_›))
    · exact .single (.holdReleased port ‹_›)
  | transmissionComplete port =>
    refine reached_unless_reset h fun running => ?_
    unfold State.complete
    split
    · split
      · exact .single (.completeA _ running)
      · exact .refl
    · split
      · exact .single (.completeB running)
      · exact .refl
  | restartDeadline =>
    change execRestartDeadline s = _ at h
    unfold execRestartDeadline at h
    split at h <;> cases h
    · exact .single .beginReset
    · exact .refl
  | decodeCompletion => exact reached_unless_reset h completeDecode_reached
  | encodeCompletion => exact reached_unless_reset h completeEncode_reached
  | voidRunEnd => exact reached_unless_reset h fun _ => endVoid_reached s
  | identify env args | setState env args | hold env args | release env args | restart env args | openCall env args
  | modify env args | close env args | contextReport env args | writeTable env args | writeNext env args
  | readTable env args | readNext env args | readStatus env args | clearFlags env args | setNoticeMask env args
  | traceArm env args | traceRead env args =>
    exact reached_unless_reset h fun running => control_reached running _ _

/-- A property that every operation keeps is kept by every step. -/
theorem step_keeps {P : State → Prop} (k : ∀ s t, Operation s t → P s → P t) (s t : State) (p : P s)
    (h : step s = .next t) : P t := by
  unfold step at h
  split at h
  · cases h; exact p
  · exact (exec_reaches _ _ _ h).keeps k (k _ _ (.pending _) p)

end Sys2Proof.Machine

/-! What an operation does to one context. `Channel.Change` names every way a context moves but for a reset and a tick;
`Operation.context` says that there is no other. -/

namespace Sys2Proof.Machine

/-! ## The parts of a boundary -/

section Transfer
variable (c : Channel) (highways : Vector Highway 4) (frame : Nat)

@[simp] theorem Channel.transfer_state : (c.transfer highways frame).state = c.state := by
  unfold Channel.transfer; split <;> rfl
@[simp] theorem Channel.transfer_generation : (c.transfer highways frame).generation = c.generation := by
  unfold Channel.transfer; split <;> rfl
@[simp] theorem Channel.transfer_binding : (c.transfer highways frame).binding = c.binding := by
  unfold Channel.transfer; split <;> rfl
@[simp] theorem Channel.transfer_applied : (c.transfer highways frame).applied = c.applied := by
  unfold Channel.transfer; split <;> rfl
@[simp] theorem Channel.transfer_waiting : (c.transfer highways frame).waiting = c.waiting := by
  unfold Channel.transfer; split <;> rfl
@[simp] theorem Channel.transfer_firstBoundary : (c.transfer highways frame).firstBoundary = c.firstBoundary := by
  unfold Channel.transfer; split <;> rfl
@[simp] theorem Channel.transfer_playout : (c.transfer highways frame).playout = c.playout := by
  unfold Channel.transfer; split <;> rfl
@[simp] theorem Channel.transfer_codec : (c.transfer highways frame).codec = c.codec := by
  unfold Channel.transfer; split <;> rfl
@[simp] theorem Channel.transfer_counters : (c.transfer highways frame).counters = c.counters := by
  unfold Channel.transfer; split <;> rfl

/-- The transfer of a context in use: its code at the position driven and, past the first boundary, one collected. -/
theorem Channel.transfer_bound {c : Channel} {b : Binding} (state : c.state ≠ .free) (bound : c.binding = some b)
    (highways : Vector Highway 4) (frame : Nat) :
    c.transfer highways frame =
      { c with
        buffers :=
          if c.firstBoundary then c.buffers
          else c.buffers.collect (position frame b.phase) (collectedCode highways[b.highway] b),
        driven := some (c.buffers.playing.getD (position frame b.phase) b.law.idle) } := by
  unfold Channel.transfer
  split
  · exact absurd ‹_› state
  · simp_all
  · simp_all

/-- A context that is not in use drives nothing. -/
theorem Channel.transfer_free {c : Channel} (state : c.state = .free) (highways : Vector Highway 4) (frame : Nat) :
    c.transfer highways frame = { c with driven := none } := by
  unfold Channel.transfer; rw [state]

end Transfer

section Work
variable (c : Channel) (b : Binding) (hold : Bool)

@[simp] theorem Channel.boundaryWork_state : (c.boundaryWork b hold).state = c.state := by
  unfold Channel.boundaryWork; dsimp only; split <;> rfl
@[simp] theorem Channel.boundaryWork_generation : (c.boundaryWork b hold).generation = c.generation := by
  unfold Channel.boundaryWork; dsimp only; split <;> rfl
@[simp] theorem Channel.boundaryWork_binding : (c.boundaryWork b hold).binding = c.binding := by
  unfold Channel.boundaryWork; dsimp only; split <;> rfl
theorem Channel.boundaryWork_applied :
    (c.boundaryWork b hold).applied = if hold then c.applied else (c.applied.move c.waiting).settle := by
  unfold Channel.boundaryWork; dsimp only; split <;> rfl
theorem Channel.boundaryWork_waiting :
    (c.boundaryWork b hold).waiting = if hold then c.waiting else PendingRecord.empty := by
  unfold Channel.boundaryWork; dsimp only; split <;> rfl
theorem Channel.boundaryWork_codec :
    (c.boundaryWork b hold).codec =
      if hold = false ∧ c.applied.suppression = true ∧ (c.applied.move c.waiting).suppression = false then
        { c.codec with encoder := c.codec.encoder.suppressionOff }
      else c.codec := by
  unfold Channel.boundaryWork; dsimp only; split <;> simp_all [Channel.applySettings]
theorem Channel.boundaryWork_buffers :
    (c.boundaryWork b hold).buffers =
      if c.firstBoundary then c.buffers.exchange b.law else (c.buffers.exchange b.law).handOver := by
  unfold Channel.boundaryWork; dsimp only; split <;> rfl

end Work

section Boundary
variable {s : State} {n : Nat} (hn : n < 192) (b : Binding)
include hn

theorem State.openBoundary_state : ((s.openBoundary n b).channel n).state = (s.channel n).state := by
  simp [State.openBoundary_channel_self s n b hn, State.decidedBoundary_channel_self s n b hn]

theorem State.openBoundary_generation : ((s.openBoundary n b).channel n).generation = (s.channel n).generation := by
  simp [State.openBoundary_channel_self s n b hn, State.decidedBoundary_channel_self s n b hn]

theorem State.openBoundary_binding : ((s.openBoundary n b).channel n).binding = (s.channel n).binding := by
  simp [State.openBoundary_channel_self s n b hn, State.decidedBoundary_channel_self s n b hn]

theorem State.openBoundary_applied :
    ((s.openBoundary n b).channel n).applied = ((s.channel n).boundaryWork b s.stagingHold).applied := by
  simp [State.openBoundary_channel_self s n b hn, State.decidedBoundary_channel_self s n b hn]

theorem State.openBoundary_waiting :
    ((s.openBoundary n b).channel n).waiting = ((s.channel n).boundaryWork b s.stagingHold).waiting := by
  simp [State.openBoundary_channel_self s n b hn, State.decidedBoundary_channel_self s n b hn]

theorem State.openBoundary_firstBoundary : ((s.openBoundary n b).channel n).firstBoundary = false := by
  simp [State.openBoundary_channel_self s n b hn]

theorem State.openBoundary_codec :
    ((s.openBoundary n b).channel n).codec = ((s.channel n).boundaryWork b s.stagingHold).codec := by
  simp [State.openBoundary_channel_self s n b hn, State.decidedBoundary_channel_self s n b hn]

theorem State.openBoundary_playout :
    ((s.openBoundary n b).channel n).playout =
      { ((s.channel n).playout.decide b.depth (s.tables.setting 7)).playout with
        health :=
          (s.channel n).playout.health.record (healthFrames (s.tables.setting 4)) (healthFrames (s.tables.setting 5))
            ((s.channel n).playout.decide b.depth (s.tables.setting 7)).recorded } := by
  simp [State.openBoundary_channel_self s n b hn, State.decidedBoundary_channel_self s n b hn]

theorem State.openBoundary_counters :
    ((s.openBoundary n b).channel n).counters =
      (s.channel n).counters.decided ((s.channel n).playout.decide b.depth (s.tables.setting 7)).counted := by
  simp [State.openBoundary_channel_self s n b hn, State.decidedBoundary_channel_self s n b hn]

end Boundary

/-! ## Counting late jobs -/

/-- A context with `k` more jobs counted as engine-late. -/
def Channel.lateBy (c : Channel) (k : Nat) : Channel :=
  if k = 0 then c
  else { c with counters := { c.counters with engineLate := countUp c.counters.engineLate k } }

theorem Channel.lateBy_eq (c : Channel) (k : Nat) :
    c.lateBy k =
      { c with
        counters :=
          { c.counters with
            engineLate := if k = 0 then c.counters.engineLate else countUp c.counters.engineLate k } } := by
  unfold Channel.lateBy; split <;> rfl

theorem State.countEngineLate_channel_eq (s : State) (n k m : Nat) :
    (s.countEngineLate n k).channel m = if m = n ∧ n < 192 then (s.channel n).lateBy k else s.channel m := by
  rw [State.countEngineLate_channel]
  by_cases hk : k = 0
  · by_cases h : m = n
    · subst h; simp [hk, Channel.lateBy]
    · simp [h]
  · simp [hk, Channel.lateBy]

theorem State.voidJobs_channel_eq (s : State) (n m : Nat) (p : Job → Bool) :
    (s.voidJobs n p).channel m =
      if m = n ∧ n < 192 then (s.channel n).lateBy (s.engine.liveCount p) else s.channel m :=
  State.countEngineLate_channel_eq ({ s with engine := s.engine.voidWhere p } : State) n _ m

/-- An issue counts what it voids and what it refuses at the job's context, and touches no context else. -/
theorem State.issueJob_channel_eq (s : State) (j : Job) (m : Nat) :
    ∃ k l, (s.issueJob j).channel m =
      if m = j.context ∧ j.context < 192 then ((s.channel m).lateBy k).lateBy l else s.channel m := by
  refine ⟨s.engine.liveCount fun x => x.matches j.ref, if s.engine.queue.length < 32 then 0 else 1, ?_⟩
  have length : (s.voidJobs j.context fun x => x.matches j.ref).engine.queue.length = s.engine.queue.length := by
    rw [State.voidJobs_engine]; simp
  unfold State.issueJob
  by_cases room : s.engine.queue.length < 32
  · rw [State.placeJob_room (by omega), State.takeJob_channel, if_pos room]
    show (s.voidJobs j.context _).channel m = _
    rw [State.voidJobs_channel_eq]
    split
    · rename_i h; rw [h.1]; rfl
    · rfl
  · rw [State.placeJob_full (by omega), State.countEngineLate_channel_eq, if_neg room]
    split
    · rename_i h; rw [State.voidJobs_channel_eq, if_pos ⟨rfl, h.2⟩, h.1]
    · rename_i h; rw [State.voidJobs_channel_eq, if_neg h]

/-- A close that completes counts the voided jobs and frees the context. -/
theorem State.closeBoundary_channel_eq (s : State) (n m : Nat) :
    (s.closeBoundary n).channel m =
      if m = n ∧ n < 192 then ((s.channel n).lateBy (s.engine.liveCount fun j => j.context == n)).released
      else s.channel m := by
  show ((s.voidJobs n _).updateChannel n Channel.released).channel m = _
  rw [State.channel_updateChannel, State.voidJobs_channel_eq]
  split
  · rename_i h; simp [h.2]
  · rename_i h; rw [State.voidJobs_channel_eq, if_neg h]

/-! ## Every change of a context -/

/-- What an operation other than a reset's end and a tick can make of context `n`; `t` is the state after it. -/
inductive Channel.Change (s t : State) (n : Nat) : Channel → Prop
  | same : Change s t n (s.channel n)
  | abandoned : Change s t n { s.channel n with boundaryDue := false, driven := none }
  | boundary (b : Binding) (state : (s.channel n).state = .opened) (bound : (s.channel n).binding = some b) :
      Change s t n ((s.openBoundary n b).channel n)
  | released (k : Nat) (state : (s.channel n).state = .closing) (only : t = s.closeBoundary n) :
      Change s t n ((s.channel n).lateBy k).released
  | cleared : Change s t n { s.channel n with boundaryDue := false }
  | late (k l : Nat) : Change s t n (((s.channel n).lateBy k).lateBy l)
  | arrive (seq : Byte) (body : EntryBody) (request quality : BitVec 4) (state : (s.channel n).state = .opened)
      (frame : ∀ f, body.frame? = some f → f.WellFormed) :
      Change s t n ((s.channel n).arrive seq body request quality)
  | decoded (r : Run) (current : s.engine.current = some r) (kind : r.job.work.kind = .decode) :
      Change s t n ((s.channel n).takeDecode r.decode)
  | encoded (r : Run) (w : EncodeWork) (current : s.engine.current = some r) :
      Change s t n ((s.channel n).takeEncode (r.encode w))
  | opened (a : OpenArgs) (accepted : s.openRefusal a = none)
      (only : t = s.updateChannel a.context fun c => c.opened a) (context : n = a.context) :
      Change s t n ((s.channel n).opened a)
  | modified (p : PendingRecord) (nonempty : ∀ set, p.allowed = some set → set.nonempty = true) :
      Change s t n { s.channel n with waiting := (s.channel n).waiting.merge p }
  | closed (state : (s.channel n).state = .opened) : Change s t n { s.channel n with state := .closing }
  | reported :
      Change s t n
        { s.channel n with
          counters := ContextCounters.zero, playout := { (s.channel n).playout with minQuality := 15 } }

/-- What an operation can make of context `n`: its reset value, a tick of it where it owes nothing, or a change, the frame
counter left alone. -/
inductive Channel.Step (s t : State) (n : Nat) : Prop
  | reset (engine : t.engine = { queue := [], current := none }) (eq : t.channel n = Channel.atReset)
  | tick (highways : Vector Highway 4) (settled : (s.channel n).boundaryDue = false)
      (eq : t.channel n = (s.channel n).tick highways t.highway.frameCounter)
  | change (frame : t.highway.frameCounter = s.highway.frameCounter) (change : Channel.Change s t n (t.channel n))

section
variable {s t : State} {n : Nat}

theorem Channel.Step.of_same (frame : t.highway.frameCounter = s.highway.frameCounter)
    (eq : t.channel n = s.channel n) : Channel.Step s t n :=
  .change frame (eq ▸ .same)

/-- A change of one context. -/
theorem Channel.Step.of_update {m : Nat} {f : Channel → Channel}
    (change : m < 192 → Channel.Change s (s.updateChannel m f) m (f (s.channel m))) : Channel.Step s (s.updateChannel m f) n := by
  refine .change rfl ?_
  rw [State.channel_updateChannel]
  split
  · rename_i h; obtain ⟨rfl, hn⟩ := h; exact change hn
  · exact .same

end

theorem State.deliverDecode_channel (s : State) (r : Run) (n : Nat) :
    (s.deliverDecode r).channel n = (s.updateChannel r.job.context fun c => c.takeDecode r.decode).channel n := by
  simp [State.deliverDecode]

theorem State.deliverEncode_channel (s : State) (r : Run) (w : EncodeWork) (n : Nat) :
    (s.deliverEncode r w).channel n =
      (s.updateChannel r.job.context fun c => c.takeEncode (r.encode w)).channel n := by
  simp [State.deliverEncode]

theorem State.beginReset_channel (s : State) (n : Nat) :
    s.beginReset.channel n = { s.channel n with boundaryDue := false, driven := none } := by
  by_cases hn : n < 192
  · exact State.channel_mapVector s _ n hn
  · rw [State.channel_out _ n (by omega), State.channel_out _ n (by omega)]; rfl

@[simp] theorem State.beginReset_frameCounter (s : State) : s.beginReset.highway.frameCounter = s.highway.frameCounter :=
  rfl

/-- Port A free again after a transmission, a unit of the originated queue counted as sent (R61, R64). -/
def State.freedA (s : State) (sent : Sending) : State :=
  { s with
    links := { s.links with portA := { s.links.portA with sending := none } },
    status :=
      { s.status with
        counters :=
          { s.status.counters with
            originatedSent :=
              if sent.origin = .originated then countUp s.status.counters.originatedSent 1
              else s.status.counters.originatedSent } } }

/-- The completion at port A: the port freed, then the reset of a pending RESTART or the next selection. -/
theorem State.completeA_eq (s : State) (sent : Sending) :
    s.completeA sent =
      if sent.restarts = true ∧ s.management.restart.isSome = true then (s.freedA sent).beginReset
      else (s.freedA sent).selectA := by
  by_cases h : sent.origin = .originated <;> simp [State.completeA, State.freedA, h, State.count]

theorem State.completeA_channel (s : State) (sent : Sending) (n : Nat) :
    (s.completeA sent).channel n = s.channel n ∨
      (s.completeA sent).channel n = { s.channel n with boundaryDue := false, driven := none } := by
  rw [State.completeA_eq]
  split
  · exact .inr ((s.freedA sent).beginReset_channel n)
  · exact .inl ((s.freedA sent).selectA_channel n)

@[simp] theorem State.completeA_frameCounter (s : State) (sent : Sending) :
    (s.completeA sent).highway.frameCounter = s.highway.frameCounter := by
  rw [State.completeA_eq]
  split
  · rfl
  · rw [State.selectA_highway]; rfl

@[simp] theorem State.completeB_channel (s : State) (n : Nat) : s.completeB.channel n = s.channel n := by
  simp only [State.completeB, State.selectB_channel]; rfl

@[simp] theorem State.completeB_management (s : State) : s.completeB.management = s.management := by
  simp [State.completeB]

@[simp] theorem State.completeB_highway (s : State) : s.completeB.highway = s.highway := by
  simp [State.completeB]

theorem State.afterReset_channel (pins : ResetPins) (a b : Bool) (waiting : List Instr) (n : Nat) :
    (State.afterReset pins a b waiting).channel n = Channel.atReset := by
  by_cases hn : n < 192
  · rw [State.channel_eq_get _ n hn]; simp [State.afterReset]
  · exact State.channel_out _ n (by omega)

theorem State.advance_channel (s : State) (inputs : Vector HighwayInput 4) (n : Nat) :
    (s.advance inputs).channel n =
      (s.channel n).tick (s.judgedHighways inputs) (nextFrame s.highway.frameCounter) := by
  by_cases hn : n < 192
  · exact State.channel_mapVector s _ n hn
  · rw [State.channel_out _ n (by omega), State.channel_out _ n (by omega)]; rfl

/-- A table entry written leaves the contexts and the frame counter alone. -/
theorem State.writeEntry_frame {s t : State} {id : TableId} {i : Nat} {bytes : List Byte}
    (h : s.writeEntry id i bytes = some t) :
    t.channels = s.channels ∧ t.engine = s.engine ∧ t.links = s.links ∧ t.status = s.status ∧ t.trace = s.trace ∧
      t.highway.frameCounter = s.highway.frameCounter ∧ t.highway.cycleDue = s.highway.cycleDue ∧
      t.stagingHold = s.stagingHold ∧ t.pending = s.pending := by
  cases id <;> simp only [State.writeEntry, Option.map_eq_some_iff, Option.some.injEq] at h
  case window => obtain ⟨w, -, rfl⟩ := h; exact ⟨rfl, rfl, rfl, rfl, rfl, rfl, rfl, rfl, rfl⟩
  case settings =>
    subst h
    refine ⟨rfl, rfl, rfl, rfl, rfl, ?_, ?_, rfl, rfl⟩ <;> (unfold State.writeSetting; dsimp only; split <;> rfl)
  all_goals subst h; exact ⟨rfl, rfl, rfl, rfl, rfl, rfl, rfl, rfl, rfl⟩

/-- An accepted OPEN is for one of the 192 contexts, which is FREE, of a device that is OPERATING. -/
structure State.Accepts (s : State) (a : OpenArgs) : Prop where
  operating : s.management.device = .operating
  context : a.context < 192
  free : (s.channel a.context).state = .free
  highway : a.highway < 4
  timeslot : a.timeslot < 64
  phase : a.phase < 160
  allowed : a.allowed.nonempty = true
  slotFree : s.countBound (fun b => b.highway.val == a.highway && b.timeslot.val == a.timeslot) = 0
  phaseRoom : s.countBound (fun b => b.phase == a.phase) < 8

theorem State.accepts_of_openRefusal {s : State} {a : OpenArgs} (h : s.openRefusal a = none) : s.Accepts a := by
  unfold State.openRefusal at h
  split at h
  · cases h
  · split at h
    · cases h
    · split at h
      · cases h
      · split at h
        · cases h
        · rename_i state argument slot phase
          simp only [not_or, not_and, not_not, not_le, not_lt] at state argument slot phase
          obtain ⟨operating, free⟩ := state
          obtain ⟨context, highway, timeslot, phase', allowed, _⟩ := argument
          exact ⟨operating, by omega, free context, by omega, by omega, by omega, by simpa using allowed, slot, phase⟩

/-- Whatever the operation, a context is reset, ticks, or changes in one of the ways of `Channel.Change`. -/
theorem Operation.context {s t : State} (op : Operation s t) (n : Nat) : Channel.Step s t n := by
  cases op with
  | endReset pins => exact .reset rfl (State.afterReset_channel _ _ _ _ n)
  | advance inputs settled => exact .tick _ (settled.boundaries n) (State.advance_channel s inputs n)
  | beginReset => exact .change rfl (s.beginReset_channel n ▸ .abandoned)
  | completeA sent running =>
    refine .change (s.completeA_frameCounter sent) ?_
    rcases s.completeA_channel sent n with h | h <;> rw [h]
    · exact .same
    · exact .abandoned
  | openBoundary m b state bound =>
    refine .change (by simp) ?_
    by_cases h : n = m
    · subst h; exact .boundary b state bound
    · rw [State.openBoundary_channel_ne _ _ _ _ h]; exact .same
  | closeBoundary m state =>
    refine .change (by simp) ?_
    rw [State.closeBoundary_channel_eq]
    split
    · rename_i h; obtain ⟨rfl, -⟩ := h; exact .released _ state rfl
    · exact .same
  | noBoundary m =>
    refine .change rfl ?_
    rw [State.channel_setChannel]
    split
    · rename_i h; obtain ⟨rfl, -⟩ := h; exact .cleared
    · exact .same
  | issueJob j issuable =>
    refine .change (by simp) ?_
    obtain ⟨k, l, h⟩ := s.issueJob_channel_eq j n
    rw [h]
    split
    · exact .late k l
    · exact .same
  | arrive m seq body request quality state frame =>
    exact .of_update fun _ => .arrive seq body request quality state frame
  | deliverDecode r running current kind delivers =>
    refine .change (by simp) ?_
    rw [State.deliverDecode_channel, State.channel_updateChannel]
    split
    · rename_i h; rw [← h.1]; exact .decoded r current kind
    · exact .same
  | deliverEncode r w running current work delivers =>
    refine .change (by simp) ?_
    rw [State.deliverEncode_channel, State.channel_updateChannel]
    split
    · rename_i h; rw [← h.1]; exact .encoded r w current
    · exact .same
  | opened a accepted => exact .of_update fun _ => .opened a accepted rfl rfl
  | modified m p state nonempty => exact .of_update fun _ => .modified p nonempty
  | closed m state => exact .of_update fun _ => .closed state
  | reported m => exact .of_update fun _ => .reported
  | writeEntry id i bytes t written =>
    obtain ⟨channels, -, -, -, -, frame, -⟩ := State.writeEntry_frame written
    exact .of_same frame (State.channel_congr channels n)
  | holdReleased port running => exact .of_same (by cases port <;> simp [State.select]) (by simp)
  | endReception | offerAToB | offerBToA | offerNotice | respond | holdPin | completeB | endRun =>
    exact .of_same (by simp) (by simp)
  | _ => exact .of_same rfl rfl

end Sys2Proof.Machine

/-! The laws of the contexts (8.4, 1.2, 1.7): FREE in STANDBY, the bindings, and the modes. -/

namespace Sys2Proof.Machine

/-! ## Late counts and ticks change nothing these laws read -/

@[simp] theorem Channel.lateBy_state (c : Channel) (k : Nat) : (c.lateBy k).state = c.state := by
  rw [Channel.lateBy_eq]
@[simp] theorem Channel.lateBy_generation (c : Channel) (k : Nat) : (c.lateBy k).generation = c.generation := by
  rw [Channel.lateBy_eq]
@[simp] theorem Channel.lateBy_binding (c : Channel) (k : Nat) : (c.lateBy k).binding = c.binding := by
  rw [Channel.lateBy_eq]
@[simp] theorem Channel.lateBy_applied (c : Channel) (k : Nat) : (c.lateBy k).applied = c.applied := by
  rw [Channel.lateBy_eq]
@[simp] theorem Channel.lateBy_waiting (c : Channel) (k : Nat) : (c.lateBy k).waiting = c.waiting := by
  rw [Channel.lateBy_eq]
@[simp] theorem Channel.lateBy_boundaryDue (c : Channel) (k : Nat) : (c.lateBy k).boundaryDue = c.boundaryDue := by
  rw [Channel.lateBy_eq]
@[simp] theorem Channel.lateBy_playout (c : Channel) (k : Nat) : (c.lateBy k).playout = c.playout := by
  rw [Channel.lateBy_eq]
@[simp] theorem Channel.lateBy_codec (c : Channel) (k : Nat) : (c.lateBy k).codec = c.codec := by
  rw [Channel.lateBy_eq]
@[simp] theorem Channel.lateBy_buffers (c : Channel) (k : Nat) : (c.lateBy k).buffers = c.buffers := by
  rw [Channel.lateBy_eq]

/-- A tick marks a boundary or transfers; either way it changes a context's mark, its buffers and its pin alone. -/
theorem Channel.tick_eq (highways : Vector Highway 4) (frame : Nat) (c : Channel) :
    c.tick highways frame =
      { c with
        boundaryDue := (c.tick highways frame).boundaryDue, buffers := (c.tick highways frame).buffers,
        driven := (c.tick highways frame).driven } := by
  unfold Channel.tick
  split
  · rfl
  · unfold Channel.transfer; split <;> rfl

section Tick
variable (highways : Vector Highway 4) (frame : Nat) (c : Channel)

@[simp] theorem Channel.tick_state : (c.tick highways frame).state = c.state := by rw [Channel.tick_eq]
@[simp] theorem Channel.tick_generation : (c.tick highways frame).generation = c.generation := by rw [Channel.tick_eq]
@[simp] theorem Channel.tick_binding : (c.tick highways frame).binding = c.binding := by rw [Channel.tick_eq]
@[simp] theorem Channel.tick_applied : (c.tick highways frame).applied = c.applied := by rw [Channel.tick_eq]
@[simp] theorem Channel.tick_waiting : (c.tick highways frame).waiting = c.waiting := by rw [Channel.tick_eq]
@[simp] theorem Channel.tick_playout : (c.tick highways frame).playout = c.playout := by rw [Channel.tick_eq]
@[simp] theorem Channel.tick_codec : (c.tick highways frame).codec = c.codec := by rw [Channel.tick_eq]
@[simp] theorem Channel.tick_counters : (c.tick highways frame).counters = c.counters := by rw [Channel.tick_eq]

end Tick

/-- An arrival changes the playout record, the counters and the pending record alone. -/
theorem Channel.arrive_eq (c : Channel) (seq : Byte) (body : EntryBody) (request quality : BitVec 4) :
    c.arrive seq body request quality =
      { c with
        playout := (c.arrive seq body request quality).playout,
        counters := (c.arrive seq body request quality).counters,
        waiting := (c.arrive seq body request quality).waiting } := by
  unfold Channel.arrive
  dsimp only
  split
  · unfold Channel.takeRequest; split <;> rfl
  · rfl

section Arrive
variable (c : Channel) (seq : Byte) (body : EntryBody) (request quality : BitVec 4)

@[simp] theorem Channel.arrive_state : (c.arrive seq body request quality).state = c.state := by
  rw [Channel.arrive_eq]
@[simp] theorem Channel.arrive_generation : (c.arrive seq body request quality).generation = c.generation := by
  rw [Channel.arrive_eq]
@[simp] theorem Channel.arrive_binding : (c.arrive seq body request quality).binding = c.binding := by
  rw [Channel.arrive_eq]
@[simp] theorem Channel.arrive_applied : (c.arrive seq body request quality).applied = c.applied := by
  rw [Channel.arrive_eq]
@[simp] theorem Channel.arrive_boundaryDue : (c.arrive seq body request quality).boundaryDue = c.boundaryDue := by
  rw [Channel.arrive_eq]
@[simp] theorem Channel.arrive_codec : (c.arrive seq body request quality).codec = c.codec := by
  rw [Channel.arrive_eq]
@[simp] theorem Channel.arrive_buffers : (c.arrive seq body request quality).buffers = c.buffers := by
  rw [Channel.arrive_eq]

/-- An arrival sets no part of the pending record but the target. -/
@[simp] theorem Channel.arrive_waiting_allowed :
    (c.arrive seq body request quality).waiting.allowed = c.waiting.allowed := by
  unfold Channel.arrive
  dsimp only
  split
  · unfold Channel.takeRequest; split <;> rfl
  · rfl

end Arrive

/-! ## Calls -/

/-- A context keeps its call: its binding, whether it is FREE, and its generation. -/
structure Channel.SameCall (c d : Channel) : Prop where
  binding : d.binding = c.binding
  free : d.state = .free ↔ c.state = .free
  generation : d.generation = c.generation

theorem Channel.SameCall.refl (c : Channel) : c.SameCall c :=
  ⟨rfl, .rfl, rfl⟩

/-- A context keeps its call, or it is FREE and unbound. -/
def Channel.CallKeptOrEnded (c d : Channel) : Prop :=
  c.SameCall d ∨ (d.binding = none ∧ d.state = .free)

/-- A change ends a call where CLOSING completes and begins one where an OPEN is accepted; every other keeps it. -/
theorem Channel.Change.call {s t : State} {n : Nat} {d : Channel} (change : Channel.Change s t n d) :
    (s.channel n).SameCall d ∨ (t = s.closeBoundary n ∧ d.binding = none ∧ d.state = .free) ∨
      ∃ a, s.openRefusal a = none ∧ (t = s.updateChannel a.context fun c => c.opened a) ∧ n = a.context ∧
        d = (s.channel n).opened a := by
  cases change with
  | opened a accepted only context => exact .inr (.inr ⟨a, accepted, only, context, rfl⟩)
  | released k state only => exact .inr (.inl ⟨only, rfl, rfl⟩)
  | boundary b state bound =>
    have hn : n < 192 := State.lt_of_not_free (by rw [state]; decide)
    exact .inl ⟨State.openBoundary_binding hn b, by rw [State.openBoundary_state hn b],
      State.openBoundary_generation hn b⟩
  | closed state => exact .inl ⟨rfl, by simp [state], rfl⟩
  | late k l => exact .inl ⟨by simp, by simp, by simp⟩
  | arrive seq body request quality state frame => exact .inl ⟨by simp, by simp, by simp⟩
  | same | abandoned | cleared | decoded _ _ _ | encoded _ _ _ | modified _ _ | reported => exact .inl ⟨rfl, .rfl, rfl⟩

/-- No operation begins a call but an accepted OPEN. -/
theorem Channel.Step.call {s t : State} {n : Nat} (step : Channel.Step s t n) :
    (s.channel n).CallKeptOrEnded (t.channel n) ∨
      ∃ a, s.openRefusal a = none ∧ (t = s.updateChannel a.context fun c => c.opened a) ∧ n = a.context ∧
        t.channel n = (s.channel n).opened a := by
  cases step with
  | reset engine eq => rw [eq]; exact .inl (.inr ⟨rfl, rfl⟩)
  | tick highways settled eq => rw [eq]; exact .inl (.inl ⟨by simp, by simp, by simp⟩)
  | change frame change =>
    rcases change.call with same | ⟨-, ended⟩ | opened
    · exact .inl (.inl same)
    · exact .inl (.inr ended)
    · exact .inr opened

/-! ## STANDBY (R153) -/

theorem Operation.standbyLaw {s t : State} (op : Operation s t) (law : StandbyLaw s) : StandbyLaw t := by
  have kept (device : t.management.device = .standby → s.management.device = .standby) : StandbyLaw t := by
    intro standby n
    have free := law (device standby)
    rcases (op.context n).call with (same | ⟨-, free'⟩) | ⟨a, accepted, -⟩
    · exact same.free.2 (free n)
    · exact free'
    · have operating := (State.accepts_of_openRefusal accepted).operating
      rw [device standby] at operating; cases operating
  cases op with
  | endReset pins => exact fun _ n => by rw [State.endReset, State.afterReset_channel]; rfl
  | standby running free =>
    intro _ n
    rw [State.withDevice_channel]
    cases device : s.management.device with
    | reset => exact absurd device running
    | standby => exact law device n
    | operating => exact s.allFree_iff.1 (free device) n
  | beginReset => exact fun standby => by cases standby
  | operating running => exact fun standby => by cases standby
  | completeA sent running =>
    refine kept fun standby => ?_
    rw [State.completeA_eq] at standby
    split at standby
    · cases standby
    · simpa [State.freedA] using standby
  | respond seq payload restart running =>
    refine kept fun standby => ?_
    unfold State.respond at standby
    dsimp only at standby
    split at standby <;> simpa using standby
  | writeEntry id i bytes t written => exact kept (by rw [State.writeEntry_management written]; exact fun h => h)
  | holdReleased port running => exact kept (by cases port <;> simp [State.select])
  | closeBoundary | issueJob | endReception | offerAToB | offerBToA | offerNotice | holdPin | completeB | deliverDecode
  | deliverEncode | endRun => exact kept (by simp)
  | _ => exact kept fun h => h

/-! ## Bindings (R3, R4) -/

/-- Every context keeps its call or loses it, or an accepted OPEN has begun one. -/
theorem Operation.calls {s t : State} (op : Operation s t) :
    (∀ n, (s.channel n).CallKeptOrEnded (t.channel n)) ∨
      ∃ a, s.openRefusal a = none ∧ t = s.updateChannel a.context fun c => c.opened a := by
  by_cases none_begun : ∀ n, (s.channel n).CallKeptOrEnded (t.channel n)
  · exact .inl none_begun
  · obtain ⟨n, begun⟩ := not_forall.1 none_begun
    obtain ⟨a, accepted, only, -⟩ := (op.context n).call.resolve_left begun
    exact .inr ⟨a, accepted, only⟩

/-- A condition that comes to hold of one element at most counts one more at most. -/
theorem countP_le_succ {α : Type} [DecidableEq α] {l : List α} (distinct : l.Nodup) {p q : α → Bool} (k : α)
    (others : ∀ x ∈ l, x ≠ k → q x = true → p x = true) : l.countP q ≤ l.countP p + 1 := by
  induction l with
  | nil => simp
  | cons y ys ih =>
    obtain ⟨hy, distinct⟩ := List.nodup_cons.1 distinct
    rw [List.countP_cons, List.countP_cons]
    by_cases h : y = k
    · subst h
      have := List.countP_mono_left (l := ys) (p := q) (q := p) fun x hx =>
        others x (List.mem_cons_of_mem _ hx) (ne_of_mem_of_not_mem hx hy)
      split <;> split <;> omega
    · have rest := ih distinct fun x hx => others x (List.mem_cons_of_mem _ hx)
      have here := others y (by simp) h
      split <;> split <;> simp_all
      all_goals omega

theorem State.countBound_countP (s : State) (p : Binding → Bool) :
    s.countBound p =
      (List.range 192).countP fun n => (s.channel n).state != .free && (s.channel n).binding.any p := by
  rw [State.countBound_eq, List.countP_eq_length_filter]

/-- A context that is counted after calls have been kept or ended was counted before. -/
theorem Channel.CallKeptOrEnded.counted {c d : Channel} (call : c.CallKeptOrEnded d) (p : Binding → Bool)
    (h : (d.state != .free && d.binding.any p) = true) : (c.state != .free && c.binding.any p) = true := by
  simp only [Bool.and_eq_true, bne_iff_ne] at h ⊢
  rcases call with same | ⟨unbound, -⟩
  · exact ⟨fun free => h.1 (same.free.2 free), same.binding ▸ h.2⟩
  · rw [unbound] at h; exact absurd h.2 (by simp)

theorem OpenArgs.binding_highway (a : OpenArgs) (h : a.highway < 4) : a.binding.highway.val = a.highway := by
  simp [OpenArgs.binding, Nat.mod_eq_of_lt h]

theorem OpenArgs.binding_timeslot (a : OpenArgs) (h : a.timeslot < 64) : a.binding.timeslot.val = a.timeslot := by
  simp [OpenArgs.binding, Nat.mod_eq_of_lt h]

theorem clampDepth_range (n : Nat) : 1 ≤ clampDepth n ∧ clampDepth n ≤ 6 := by
  unfold clampDepth; omega

/-- Kept and ended calls keep the bindings lawful. -/
theorem BindingLaw.of_calls {s t : State} (law : BindingLaw s)
    (calls : ∀ n, (s.channel n).CallKeptOrEnded (t.channel n)) : BindingLaw t := by
  have before {n : Nat} {b : Binding} (h : (t.channel n).binding = some b) : (s.channel n).binding = some b := by
    rcases calls n with same | ⟨unbound, -⟩
    · rw [← same.binding]; exact h
    · rw [unbound] at h; cases h
  refine ⟨fun n => ?_, fun n b h => law.phase n b (before h), fun n m b d hb hd => ?_, fun p => ?_⟩
  · rcases calls n with same | ⟨unbound, free⟩
    · rw [same.binding, law.bound n, not_iff_not]; exact same.free.symm
    · simp [unbound, free]
  · exact law.timeslot n m b d (before hb) (before hd)
  · have bound := law.share p
    rw [State.countBound_countP] at bound ⊢
    exact (List.countP_mono_left fun n _ => (calls n).counted _).trans bound

/-- An accepted OPEN binds a FREE context to a timeslot that no context has, in a phase with room. -/
theorem BindingLaw.opened {s : State} (law : BindingLaw s) {a : OpenArgs} (accepts : s.Accepts a) :
    BindingLaw (s.updateChannel a.context fun c => c.opened a) := by
  have self : (s.updateChannel a.context fun c => c.opened a).channel a.context = (s.channel a.context).opened a :=
    State.channel_updateChannel_self _ _ _ accepts.context
  have other {n : Nat} (h : n ≠ a.context) :
      (s.updateChannel a.context fun c => c.opened a).channel n = s.channel n :=
    State.channel_updateChannel_ne _ _ _ _ h
  have untaken {n : Nat} {b : Binding} (hb : (s.channel n).binding = some b)
      (highway : b.highway = a.binding.highway) (timeslot : b.timeslot = a.binding.timeslot) : False := by
    refine (State.countBound_pos s _).2 ⟨n, b, (law.bound n).1 (by simp [hb]), hb, ?_⟩ accepts.slotFree
    simp [highway, timeslot, a.binding_highway accepts.highway, a.binding_timeslot accepts.timeslot]
  refine ⟨fun n => ?_, fun n b hb => ?_, fun n m b d hb hd highway timeslot => ?_, fun p => ?_⟩
  · by_cases h : n = a.context
    · subst h; rw [self]; simp [Channel.opened]
    · rw [other h]; exact law.bound n
  · by_cases h : n = a.context
    · subst h
      rw [self] at hb
      obtain rfl : a.binding = b := by simpa [Channel.opened] using hb
      exact ⟨accepts.phase, clampDepth_range a.depth⟩
    · rw [other h] at hb; exact law.phase n b hb
  · by_cases hn : n = a.context <;> by_cases hm : m = a.context
    · rw [hn, hm]
    · rw [hn, self] at hb
      rw [other hm] at hd
      obtain rfl : a.binding = b := by simpa [Channel.opened] using hb
      exact (untaken hd highway.symm timeslot.symm).elim
    · rw [hm, self] at hd
      rw [other hn] at hb
      obtain rfl : a.binding = d := by simpa [Channel.opened] using hd
      exact (untaken hb highway timeslot).elim
    · rw [other hn] at hb
      rw [other hm] at hd
      exact law.timeslot n m b d hb hd highway timeslot
  · have bound := law.share p
    have room := accepts.phaseRoom
    rw [State.countBound_countP] at bound room ⊢
    by_cases phase : a.phase = p
    · subst phase
      have more := countP_le_succ (l := List.range 192) List.nodup_range a.context fun n _ h counted =>
        show ((s.channel n).state != .free && (s.channel n).binding.any fun b => b.phase == a.phase) = true by
          rw [← other h]; exact counted
      omega
    · refine (List.countP_mono_left fun n _ => ?_).trans bound
      by_cases h : n = a.context
      · subst h; rw [self]; simp [Channel.opened, OpenArgs.binding, phase]
      · rw [other h]; exact id

theorem Operation.bindingLaw {s t : State} (op : Operation s t) (law : BindingLaw s) : BindingLaw t := by
  rcases op.calls with calls | ⟨a, accepted, rfl⟩
  · exact law.of_calls calls
  · exact law.opened (State.accepts_of_openRefusal accepted)

/-! ## Modes (R12, R20) -/

theorem ModeSet.nonempty_of_has {set : ModeSet} {m : Mode} (h : set.has m = true) : set.nonempty = true := by
  cases m <;> simp_all [ModeSet.has, ModeSet.nonempty]

/-- The settings application leaves the target and the mode within a set that has a member. -/
theorem Applied.settle_has {a : Applied} (h : a.allowed.nonempty = true) :
    a.settle.allowed.has a.settle.mode = true ∧ a.settle.allowed.has a.settle.target = true :=
  ⟨ModeSet.stepToward_has (ModeSet.resolve_has h _) (ModeSet.resolve_has h _), ModeSet.resolve_has h _⟩

theorem Channel.ModeLaw.congr {c d : Channel} (law : c.ModeLaw) (state : d.state ≠ .free → c.state ≠ .free)
    (applied : d.applied = c.applied) (waiting : d.waiting.allowed = c.waiting.allowed) : d.ModeLaw where
  mode use := by rw [applied]; exact law.mode (state use)
  target use := by rw [applied]; exact law.target (state use)
  waiting set h := law.waiting set (by rw [← waiting]; exact h)

theorem Channel.ModeLaw.boundaryWork {c : Channel} (law : c.ModeLaw) (use : c.state ≠ .free) (b : Binding) (hold : Bool) :
    (c.boundaryWork b hold).ModeLaw := by
  cases hold with
  | true =>
    exact law.congr (by simp) (by simp [Channel.boundaryWork_applied]) (by simp [Channel.boundaryWork_waiting])
  | false =>
    have nonempty : (c.applied.move c.waiting).allowed.nonempty = true := by
      unfold Applied.move
      cases present : c.waiting.allowed with
      | none => exact ModeSet.nonempty_of_has (law.mode use)
      | some set => exact law.waiting set present
    obtain ⟨mode, target⟩ := Applied.settle_has nonempty
    refine ⟨fun _ => ?_, fun _ => ?_, fun set h => ?_⟩
    · simpa [Channel.boundaryWork_applied] using mode
    · simpa [Channel.boundaryWork_applied] using target
    · simp [Channel.boundaryWork_waiting, PendingRecord.empty] at h

theorem Channel.Change.modeLaw {s t : State} {n : Nat} {d : Channel} (change : Channel.Change s t n d)
    (law : (s.channel n).ModeLaw) : d.ModeLaw := by
  cases change with
  | boundary b state bound =>
    have use : (s.channel n).state ≠ .free := by rw [state]; decide
    have hn := State.lt_of_not_free use
    refine (law.boundaryWork use b s.stagingHold).congr ?_ (State.openBoundary_applied hn b) ?_
    · rw [State.openBoundary_state hn b, Channel.boundaryWork_state]; exact id
    · rw [State.openBoundary_waiting hn b]
  | released k state only => exact ⟨nofun, nofun, nofun⟩
  | opened a accepted only context =>
    have nonempty := (State.accepts_of_openRefusal accepted).allowed
    exact ⟨fun _ => ModeSet.resolve_has nonempty _, fun _ => ModeSet.resolve_has nonempty _, nofun⟩
  | modified p nonempty =>
    refine ⟨law.mode, law.target, fun set h => ?_⟩
    cases present : p.allowed with
    | none => exact law.waiting set (by simpa [PendingRecord.merge, present] using h)
    | some new =>
      obtain rfl : new = set := by simpa [PendingRecord.merge, present] using h
      exact nonempty new present
  | closed state => exact law.congr (by simp [state]) rfl rfl
  | _ => exact law.congr (by simp [Channel.takeDecode, Channel.takeEncode]) (by simp [Channel.takeDecode, Channel.takeEncode]) (by simp [Channel.takeDecode, Channel.takeEncode])

theorem Operation.modeLaw {s t : State} (op : Operation s t) (law : ModeLaw s) : ModeLaw t := by
  intro n
  cases op.context n with
  | reset engine eq => rw [eq]; exact ⟨by decide, by decide, nofun⟩
  | tick highways settled eq => rw [eq]; exact (law n).congr (by simp) (by simp) (by simp)
  | change frame change => exact change.modeLaw (law n)

/-- Settles O56: each operation keeps each law of the contexts, so every step does. -/
theorem stepKeepsContextLaws : Obligations.StepKeepsContextLaws :=
  ⟨step_keeps fun _ _ => Operation.standbyLaw, step_keeps fun _ _ => Operation.bindingLaw,
    step_keeps fun _ _ => Operation.modeLaw⟩

end Sys2Proof.Machine

/-! What an operation does to the link ports and their queues (3.4 to 3.6), and the laws of the queues. -/

namespace Sys2Proof.Machine

/-! ## Selections -/

/-- A selection at port A: units leave its two queues at their heads alone, port B is left alone, and a port that is free
and READY afterwards has nothing waiting. -/
structure Links.SelectedA (l m : Links) : Prop where
  originated : m.originated <:+ l.originated
  bToA : m.bToA <:+ l.bToA
  aToB : m.aToB = l.aToB
  portB : m.portB = l.portB
  idle : m.portA.ready = true → m.originated = [] ∧ m.bToA = []

/-- A selection at port B. -/
structure Links.SelectedB (l m : Links) : Prop where
  aToB : m.aToB <:+ l.aToB
  originated : m.originated = l.originated
  bToA : m.bToA = l.bToA
  portA : m.portA = l.portA
  idle : m.portB.ready = true → m.aToB = []

theorem Links.choose_eq_none {l : Links} (h : l.choose = none) : l.originated = [] ∧ l.bToA = [] := by
  unfold Links.choose at h
  split at h <;> simp_all

theorem Links.originated_ne_nil_of_choose {l : Links} (h : l.choose = some .originated) : l.originated ≠ [] := by
  unfold Links.choose at h
  split at h <;> simp_all

theorem Links.bToA_ne_nil_of_choose {l : Links} (h : l.choose = some .passThrough) : l.bToA ≠ [] := by
  unfold Links.choose at h
  split at h <;> simp_all

theorem Links.sendOriginated_selected {l : Links} (waits : l.originated ≠ []) : l.SelectedA l.sendOriginated := by
  unfold Links.sendOriginated
  split
  · contradiction
  · rename_i eq
    exact ⟨by simp [eq], List.suffix_rfl, rfl, rfl, by simp [LinkPort.ready]⟩

theorem Links.sendPassThrough_selected {l : Links} (waits : l.bToA = [] → l.originated = []) :
    l.SelectedA l.sendPassThrough := by
  unfold Links.sendPassThrough
  split
  · rename_i eq
    exact ⟨List.suffix_rfl, List.suffix_rfl, rfl, rfl, fun _ => ⟨waits eq, eq⟩⟩
  · rename_i eq
    exact ⟨List.suffix_rfl, by simp [eq], rfl, rfl, by simp [LinkPort.ready]⟩

/-- A discard at the head of the originated queue before the selection. -/
theorem Links.SelectedA.of_discard {l m : Links} {kept : List QueuedUnit} (suffix : kept <:+ l.originated)
    (h : Links.SelectedA { l with originated := kept } m) : l.SelectedA m :=
  ⟨h.originated.trans suffix, h.bToA, h.aToB, h.portB, h.idle⟩

theorem State.selectOriginated_selected (s : State) : s.links.SelectedA s.selectOriginated.links := by
  refine .of_discard (kept := dropStale s.highway.cycleCounter (s.tables.setting 6) s.links.originated)
    (List.dropWhile_suffix _) ?_
  unfold State.selectOriginated
  dsimp only
  split
  · exact Links.sendPassThrough_selected fun _ => ‹_›
  · exact Links.sendOriginated_selected ‹_›

theorem State.selectA_selected (s : State) : s.links.SelectedA s.selectA.links := by
  unfold State.selectA
  split
  · split
    · rename_i none
      exact ⟨List.suffix_rfl, List.suffix_rfl, rfl, rfl, fun _ => Links.choose_eq_none none⟩
    · exact s.selectOriginated_selected
    · rename_i chosen
      exact Links.sendPassThrough_selected fun empty => absurd empty (Links.bToA_ne_nil_of_choose chosen)
  · exact ⟨List.suffix_rfl, List.suffix_rfl, rfl, rfl, fun ready => absurd ready ‹_›⟩

theorem State.selectB_selected (s : State) : s.links.SelectedB s.selectB.links := by
  unfold State.selectB
  split
  · unfold Links.sendB
    dsimp only
    split
    · exact ⟨List.suffix_rfl, rfl, rfl, rfl, fun _ => ‹_›⟩
    · rename_i eq
      exact ⟨by simp [eq], rfl, rfl, rfl, by simp [LinkPort.ready]⟩
  · exact ⟨List.suffix_rfl, rfl, rfl, rfl, fun ready => absurd ready ‹_›⟩

/-! ## Every change of the links -/

/-- No unit waits in any egress queue. -/
structure Links.Empty (l : Links) : Prop where
  originated : l.originated = []
  bToA : l.bToA = []
  aToB : l.aToB = []

/-- The same units wait. -/
structure Links.SameQueues (l m : Links) : Prop where
  originated : m.originated = l.originated
  bToA : m.bToA = l.bToA
  aToB : m.aToB = l.aToB

/-- What an operation makes of the links: they keep their queues and no port becomes free and READY, or (in RESET) the ports
alone move, or everything is abandoned, or a port frees and selects, or a unit enters a queue that has room and its port
selects. -/
inductive Links.Change (device : DeviceState) (l : Links) : Links → Prop
  | kept {m : Links} (queues : l.SameQueues m) (portA : m.portA.ready = true → l.portA.ready = true)
      (portB : m.portB.ready = true → l.portB.ready = true) : Change device l m
  | inReset {m : Links} (reset : device = .reset) (queues : l.SameQueues m) : Change device l m
  | abandoned {m : Links} (empty : m.Empty) : Change device l m
  | selectedA {m k : Links} (running : device ≠ .reset) (queues : l.SameQueues k) (portB : k.portB = l.portB)
      (selected : k.SelectedA m) : Change device l m
  | selectedB {m k : Links} (running : device ≠ .reset) (queues : l.SameQueues k) (portA : k.portA = l.portA)
      (selected : k.SelectedB m) : Change device l m
  | enteredAToB {m : Links} (running : device ≠ .reset) (bytes : List Byte) (room : l.aToB.length < 64)
      (selected : Links.SelectedB { l with aToB := l.aToB ++ [bytes] } m) : Change device l m
  | enteredBToA {m : Links} (running : device ≠ .reset) (bytes : List Byte) (room : l.bToA.length < 64)
      (selected : Links.SelectedA { l with bToA := l.bToA ++ [bytes] } m) : Change device l m
  | enteredOriginated {m : Links} (running : device ≠ .reset) (u : QueuedUnit) (room : l.originated.length < 64)
      (speech : u.kind.perishable = true → l.speechWaiting < 60)
      (selected : Links.SelectedA { l with originated := l.originated ++ [u] } m) : Change device l m

theorem Links.Change.same {device : DeviceState} {l m : Links} (eq : m = l) : Links.Change device l m :=
  eq ▸ .kept ⟨rfl, rfl, rfl⟩ id id

section Offers
variable {s : State} (running : s.running)
include running

theorem State.offerAToB_change (bytes : List Byte) :
    Links.Change s.management.device s.links (s.offerAToB bytes).links := by
  unfold State.offerAToB
  split
  · exact .enteredAToB running bytes ‹_›
      (State.selectB_selected { s with links := { s.links with aToB := s.links.aToB ++ [bytes] } })
  · exact .same rfl

theorem State.offerBToA_change (bytes : List Byte) :
    Links.Change s.management.device s.links (s.offerBToA bytes).links := by
  unfold State.offerBToA
  split
  · exact .enteredBToA running bytes ‹_›
      (State.selectA_selected { s with links := { s.links with bToA := s.links.bToA ++ [bytes] } })
  · exact .same rfl

theorem State.offerNotice_change (bytes : List Byte) :
    Links.Change s.management.device s.links (s.offerNotice bytes).links := by
  unfold State.offerNotice
  split
  · exact .enteredOriginated running _ ‹_› (by simp [UnitKind.perishable]) (s.enterOriginated .notice bytes false).selectA_selected
  · exact .same rfl

theorem State.offerResponse_change (bytes : List Byte) (restarts : Bool) :
    Links.Change s.management.device s.links (s.offerResponse bytes restarts).links := by
  unfold State.offerResponse
  split
  · exact .enteredOriginated running _ ‹_› (by simp [UnitKind.perishable]) (s.enterOriginated .response bytes restarts).selectA_selected
  · exact .same rfl

theorem State.offerUnit_change (u : Option (UnitKind × List Byte)) :
    Links.Change s.management.device s.links (s.offerUnit u).links := by
  unfold State.offerUnit State.offerSpeech
  split
  · exact .same rfl
  · split
    · rename_i kind bytes room
      exact .enteredOriginated running _ room.1 (fun _ => room.2) (s.enterOriginated kind bytes false).selectA_selected
    · exact .same rfl

theorem State.respond_change (seq : Byte) (payload : List Byte) (restart : Bool) :
    Links.Change s.management.device s.links (s.respond seq payload restart).links := by
  unfold State.respond
  dsimp only
  split
  · exact State.offerResponse_change (s := { s with management := { s.management with restart := some _ } }) running _ _
  · exact State.offerResponse_change running _ _

theorem State.completeA_change (sent : Sending) :
    Links.Change s.management.device s.links (s.completeA sent).links := by
  rw [State.completeA_eq]
  split
  · exact .abandoned ⟨rfl, rfl, rfl⟩
  · exact .selectedA (k := (s.freedA sent).links) running ⟨rfl, rfl, rfl⟩ rfl (s.freedA sent).selectA_selected

theorem State.completeB_change : Links.Change s.management.device s.links s.completeB.links :=
  .selectedB (k := { s.links with portB := { s.links.portB with sending := none } }) running ⟨rfl, rfl, rfl⟩ rfl
    (State.selectB_selected { s with links := { s.links with portB := { s.links.portB with sending := none } } })

theorem State.holdReleased_change (port : Port) :
    Links.Change s.management.device s.links ((s.withHold port false).select port).links := by
  cases port with
  | a =>
    exact .selectedA (k := (s.withHold .a false).links) running ⟨rfl, rfl, rfl⟩ rfl (s.withHold .a false).selectA_selected
  | b =>
    exact .selectedB (k := (s.withHold .b false).links) running ⟨rfl, rfl, rfl⟩ rfl (s.withHold .b false).selectB_selected

end Offers

theorem State.endReception_change (s : State) (port : Port) (device : DeviceState) :
    Links.Change device s.links (s.endReception port).links := by
  cases port <;> exact .kept ⟨rfl, rfl, rfl⟩ id id

/-- The hold pin alone: assertion makes no port READY, and in RESET nothing waits. -/
theorem State.holdPin_change {s : State} (port : Port) {level : Bool}
    (waits : level = true ∨ s.management.device = .reset) :
    Links.Change s.management.device s.links (s.withHold port level).links := by
  rcases waits with rfl | reset
  · cases port <;> exact .kept ⟨rfl, rfl, rfl⟩ (by simp [State.withHold, LinkPort.ready]) (by simp [State.withHold, LinkPort.ready])
  · exact .inReset reset (by cases port <;> exact ⟨rfl, rfl, rfl⟩)

theorem Operation.links {s t : State} (op : Operation s t) : Links.Change s.management.device s.links t.links := by
  cases op with
  | beginReset => exact .abandoned ⟨rfl, rfl, rfl⟩
  | endReset pins => exact .abandoned ⟨rfl, rfl, rfl⟩
  | endReception port => exact s.endReception_change port _
  | offerAToB bytes running => exact State.offerAToB_change running bytes
  | offerBToA bytes running => exact State.offerBToA_change running bytes
  | offerNotice bytes running => exact State.offerNotice_change running bytes
  | respond seq payload restart running => exact State.respond_change running seq payload restart
  | holdPin port level waits => exact State.holdPin_change port waits
  | holdReleased port running => exact State.holdReleased_change running port
  | completeA sent running => exact State.completeA_change running sent
  | completeB running => exact State.completeB_change running
  | deliverEncode r w running current work delivers =>
    have offered := State.offerUnit_change (s := s.updateChannel r.job.context fun c => c.takeEncode (r.encode w)) running
      (r.encode w).unit
    simpa [State.deliverEncode] using offered
  | writeEntry id i bytes t written =>
    obtain ⟨-, -, links, -⟩ := State.writeEntry_frame written
    exact .same links
  | _ => exact .same (by simp [State.withCursor])

/-- RESET is entered by an operation that leaves nothing waiting. -/
theorem Operation.reset_entered {s t : State} (op : Operation s t) (reset : t.management.device = .reset) :
    s.management.device = .reset ∨ t.links.Empty := by
  cases op with
  | beginReset => exact .inr ⟨rfl, rfl, rfl⟩
  | endReset pins => cases reset
  | standby running free => cases reset
  | operating running => cases reset
  | completeA sent running =>
    rw [State.completeA_eq] at reset ⊢
    split at reset
    · exact .inr (by rw [if_pos ‹_›]; exact ⟨rfl, rfl, rfl⟩)
    · exact .inl (by simpa [State.freedA] using reset)
  | respond seq payload restart running =>
    refine .inl ?_
    unfold State.respond at reset
    dsimp only at reset
    split at reset <;> simpa using reset
  | writeEntry id i bytes t written => exact .inl (by rwa [State.writeEntry_management written] at reset)
  | completeB running => exact .inl (by simpa using reset)
  | _ => exact .inl (by simpa [State.withCursor] using reset)

/-! ## The laws -/

theorem Links.speechWaiting_append (l : Links) (u : QueuedUnit) :
    Links.speechWaiting { l with originated := l.originated ++ [u] } =
      l.speechWaiting + if u.kind.perishable then 1 else 0 := by
  simp [Links.speechWaiting]

/-- The queues hold what they may hold. -/
structure Links.Limited (l : Links) : Prop where
  aToB : l.aToB.length ≤ 64
  bToA : l.bToA.length ≤ 64
  originated : l.originated.length ≤ 64
  speech : l.speechWaiting ≤ 60

theorem Links.Limited.of_suffix {l m : Links} (h : l.Limited) (aToB : m.aToB <:+ l.aToB) (bToA : m.bToA <:+ l.bToA)
    (originated : m.originated <:+ l.originated) : m.Limited :=
  ⟨aToB.length_le.trans h.aToB, bToA.length_le.trans h.bToA, originated.length_le.trans h.originated,
    (originated.sublist.countP_le).trans h.speech⟩

theorem Links.Limited.same {l m : Links} (h : l.Limited) (queues : l.SameQueues m) : m.Limited :=
  h.of_suffix (queues.aToB ▸ List.suffix_rfl) (queues.bToA ▸ List.suffix_rfl) (queues.originated ▸ List.suffix_rfl)

theorem Links.SelectedA.limited {l m : Links} (selected : l.SelectedA m) (h : l.Limited) : m.Limited :=
  h.of_suffix (selected.aToB ▸ List.suffix_rfl) selected.bToA selected.originated

theorem Links.SelectedB.limited {l m : Links} (selected : l.SelectedB m) (h : l.Limited) : m.Limited :=
  h.of_suffix selected.aToB (selected.bToA ▸ List.suffix_rfl) (selected.originated ▸ List.suffix_rfl)

theorem Links.Change.limited {device : DeviceState} {l m : Links} (change : Links.Change device l m) (h : l.Limited) :
    m.Limited := by
  cases change with
  | kept queues portA portB => exact h.same queues
  | inReset reset queues => exact h.same queues
  | abandoned empty =>
    exact ⟨by simp [empty.aToB], by simp [empty.bToA], by simp [empty.originated],
      by simp [Links.speechWaiting, empty.originated]⟩
  | selectedA running queues portB selected => exact selected.limited (h.same queues)
  | selectedB running queues portA selected => exact selected.limited (h.same queues)
  | enteredAToB running bytes room selected =>
    exact selected.limited ⟨by simp; omega, h.bToA, h.originated, h.speech⟩
  | enteredBToA running bytes room selected =>
    exact selected.limited ⟨h.aToB, by simp; omega, h.originated, h.speech⟩
  | enteredOriginated running u room speech selected =>
    refine selected.limited ⟨h.aToB, h.bToA, by simp; omega, ?_⟩
    have waiting := h.speech
    rw [Links.speechWaiting_append]
    split
    · have := speech ‹_›; omega
    · exact waiting

theorem State.takeJob_queue_suffix (s : State) : s.takeJob.engine.queue <:+ s.engine.queue := by
  unfold State.takeJob
  split
  · exact List.suffix_rfl
  · split
    · exact List.nil_suffix
    · rename_i j js eq
      exact (List.suffix_cons j js).trans (eq ▸ List.dropWhile_suffix _)

theorem State.issueJob_queue_length (s : State) (j : Job) (h : s.engine.queue.length ≤ 32) :
    (s.issueJob j).engine.queue.length ≤ 32 := by
  have length : (s.voidJobs j.context fun x => x.matches j.ref).engine.queue.length = s.engine.queue.length := by
    rw [State.voidJobs_engine]; simp
  unfold State.issueJob
  by_cases room : s.engine.queue.length < 32
  · rw [State.placeJob_room (by omega)]
    refine (State.takeJob_queue_suffix _).length_le.trans ?_
    simp; omega
  · rw [State.placeJob_full (by omega)]
    simp; omega

theorem Operation.queue_length {s t : State} (op : Operation s t) (h : s.engine.queue.length ≤ 32) :
    t.engine.queue.length ≤ 32 := by
  have ended (u : State) (engine : u.engine = s.engine) : u.endRun.engine.queue.length ≤ 32 :=
    (State.takeJob_queue_suffix _).length_le.trans (engine ▸ h)
  cases op with
  | beginReset => exact Nat.zero_le _
  | endReset pins => exact Nat.zero_le _
  | issueJob j issuable => exact s.issueJob_queue_length j h
  | closeBoundary n state => simpa [State.closeBoundary, State.voidJobs_engine] using h
  | endRun r current => exact ended s rfl
  | deliverDecode r running current kind delivers => exact ended _ (by simp)
  | deliverEncode r w running current work delivers => exact ended _ (by simp)
  | completeA sent running =>
    rw [State.completeA_eq]
    split
    · exact Nat.zero_le _
    · simpa [State.freedA] using h
  | completeB running => simpa [State.completeB] using h
  | writeEntry id i bytes t written =>
    obtain ⟨-, engine, -⟩ := State.writeEntry_frame written
    rw [engine]; exact h
  | _ => simpa [State.withCursor] using h

theorem Operation.queueLaw {s t : State} (op : Operation s t) (law : QueueLaw s) : QueueLaw t := by
  obtain ⟨aToB, bToA, originated, speech⟩ := op.links.limited ⟨law.aToB, law.bToA, law.originated, law.speech⟩
  exact ⟨aToB, bToA, originated, speech, op.queue_length law.jobs⟩

/-- A port that is free and READY has nothing waiting. -/
structure Links.Idle (l : Links) : Prop where
  portA : l.portA.ready = true → l.originated = [] ∧ l.bToA = []
  portB : l.portB.ready = true → l.aToB = []

theorem Links.SelectedA.keeps_idle {l m : Links} (selected : l.SelectedA m) (portB : l.portB.ready = true → l.aToB = []) :
    m.Idle :=
  ⟨selected.idle, by rw [selected.portB, selected.aToB]; exact portB⟩

theorem Links.SelectedB.keeps_idle {l m : Links} (selected : l.SelectedB m)
    (portA : l.portA.ready = true → l.originated = [] ∧ l.bToA = []) : m.Idle :=
  ⟨by rw [selected.portA, selected.originated, selected.bToA]; exact portA, selected.idle⟩

theorem Links.Change.idle {device : DeviceState} {l m : Links} (change : Links.Change device l m) (h : l.Idle)
    (reset : device = .reset → l.Empty) : m.Idle := by
  cases change with
  | kept queues portA portB =>
    refine ⟨fun ready => ?_, fun ready => ?_⟩
    · rw [queues.originated, queues.bToA]; exact h.portA (portA ready)
    · rw [queues.aToB]; exact h.portB (portB ready)
  | inReset inReset queues =>
    obtain ⟨originated, bToA, aToB⟩ := reset inReset
    exact ⟨fun _ => ⟨queues.originated.trans originated, queues.bToA.trans bToA⟩, fun _ => queues.aToB.trans aToB⟩
  | abandoned empty => exact ⟨fun _ => ⟨empty.originated, empty.bToA⟩, fun _ => empty.aToB⟩
  | selectedA running queues portB selected =>
    exact selected.keeps_idle (by rw [portB, queues.aToB]; exact h.portB)
  | selectedB running queues portA selected =>
    exact selected.keeps_idle (by rw [portA, queues.originated, queues.bToA]; exact h.portA)
  | enteredAToB running bytes room selected => exact selected.keeps_idle h.portA
  | enteredBToA running bytes room selected => exact selected.keeps_idle h.portB
  | enteredOriginated running u room speech selected => exact selected.keeps_idle h.portB

/-- While the part is in RESET, nothing enters a queue. -/
theorem Links.Change.empty {l m : Links} (change : Links.Change .reset l m) (h : l.Empty) : m.Empty := by
  have same (queues : l.SameQueues m) : m.Empty :=
    ⟨queues.originated.trans h.originated, queues.bToA.trans h.bToA, queues.aToB.trans h.aToB⟩
  cases change with
  | kept queues portA portB => exact same queues
  | inReset reset queues => exact same queues
  | abandoned empty => exact empty
  | selectedA running _ _ _ | selectedB running _ _ _ | enteredAToB running _ _ _ | enteredBToA running _ _ _
  | enteredOriginated running _ _ _ _ => exact absurd rfl running

theorem Operation.idlePortLaw {s t : State} (op : Operation s t) (law : IdlePortLaw s) : IdlePortLaw t := by
  have waiting (reset : s.management.device = .reset) : s.links.Empty := by
    obtain ⟨originated, bToA, aToB⟩ := law.reset reset
    exact ⟨originated, bToA, aToB⟩
  obtain ⟨portA, portB⟩ := op.links.idle ⟨law.portA, law.portB⟩ waiting
  refine ⟨portA, portB, fun reset => ?_⟩
  have empty : t.links.Empty := by
    rcases op.reset_entered reset with before | empty
    · exact Links.Change.empty (before ▸ op.links) (waiting before)
    · exact empty
  exact ⟨empty.originated, empty.bToA, empty.aToB⟩

end Sys2Proof.Machine

/-! The order of the playout queues (4.1): the window moves forward past what has been played, and an arrival takes its place. -/

namespace Sys2Proof.Machine

/-! ## Distances -/

theorem distance_lt (a b : Byte) : distance a b < 256 :=
  (a - b).isLt

theorem distance_self (a : Byte) : distance a a = 0 := by
  simp [distance]

/-- Measured from a nearer number, a distance is less by that number's own. -/
theorem distance_of_le {a b ref : Byte} (h : distance b ref ≤ distance a ref) :
    distance a b = distance a ref - distance b ref := by
  unfold distance at *
  simp only [BitVec.toNat_sub] at *
  omega

theorem distance_succ {a ref : Byte} (h : distance a ref < 255) : distance (a + 1) ref = distance a ref + 1 := by
  have one : (1 : Byte).toNat = 1 := rfl
  unfold distance at *
  simp only [BitVec.toNat_sub, BitVec.toNat_add, one] at *
  omega

theorem distance_injective {a b ref : Byte} (h : distance a ref = distance b ref) : a = b := by
  unfold distance at h
  exact sub_left_injective (BitVec.eq_of_toNat_eq h)

theorem distance_eq_zero {a ref : Byte} (h : distance a ref = 0) : a = ref :=
  distance_injective (h.trans (distance_self ref).symm)

/-! ## Queues in order -/

/-- Entries ascending by distance from a number, every distance in 0..7. -/
structure InOrder (ref : Byte) (queue : List Entry) : Prop where
  ascending : queue.Pairwise fun a b => distance a.seq ref < distance b.seq ref
  window : ∀ e ∈ queue, distance e.seq ref < 8

theorem Playout.law_iff (p : Playout) : p.Law ↔ InOrder p.nextSeq p.queue ∧ (p.anchored = false → p.queue = []) :=
  ⟨fun ⟨ascending, window, unanchored⟩ => ⟨⟨ascending, window⟩, unanchored⟩,
    fun ⟨⟨ascending, window⟩, unanchored⟩ => ⟨ascending, window, unanchored⟩⟩

theorem InOrder.nil (ref : Byte) : InOrder ref [] :=
  ⟨.nil, by simp⟩

/-- The window moves forward to a number that no entry which stays lies before. -/
theorem InOrder.move {ref new : Byte} {queue rest : List Entry} (h : InOrder ref queue) (sub : rest.Sublist queue)
    (below : ∀ e ∈ rest, distance new ref ≤ distance e.seq ref) : InOrder new rest := by
  have moved {e : Entry} (he : e ∈ rest) : distance e.seq new = distance e.seq ref - distance new ref :=
    distance_of_le (below e he)
  refine ⟨(h.ascending.sublist sub).imp_of_mem fun {a b} ha hb lt => ?_, fun e he => ?_⟩
  · rw [moved ha, moved hb]
    have := below a ha
    omega
  · rw [moved he]
    have := h.window e (sub.subset he)
    omega

/-- The head of a queue in order has been played. -/
theorem InOrder.afterHead {ref : Byte} {head : Entry} {rest : List Entry} (h : InOrder ref (head :: rest)) :
    InOrder (head.seq + 1) rest := by
  have near := h.window head (by simp)
  refine h.move (List.sublist_cons_self _ _) fun e he => ?_
  rw [distance_succ (by omega)]
  exact (List.pairwise_cons.1 h.ascending).1 e he

/-- A number that no head stands at has been passed. -/
theorem InOrder.afterGap {ref : Byte} {queue : List Entry} (h : InOrder ref queue)
    (gap : ∀ head rest, queue = head :: rest → head.seq ≠ ref) : InOrder (ref + 1) queue := by
  refine h.move (List.Sublist.refl _) fun e he => ?_
  rw [distance_succ (by rw [distance_self]; omega), distance_self]
  cases queue with
  | nil => cases he
  | cons head rest =>
    have headOff : distance head.seq ref ≠ 0 := fun zero => gap head rest rfl (distance_eq_zero zero)
    rcases List.mem_cons.1 he with rfl | he
    · omega
    · have := (List.pairwise_cons.1 h.ascending).1 e he
      omega

theorem mem_insertEntry {ref : Byte} {e x : Entry} {queue : List Entry} :
    x ∈ insertEntry ref e queue ↔ x = e ∨ x ∈ queue := by
  induction queue with
  | nil => simp [insertEntry]
  | cons q qs ih =>
    unfold insertEntry
    split
    · simp
    · simp only [List.mem_cons, ih]; tauto

/-- An entry of a new sequence number within the window goes to its place. -/
theorem InOrder.insertEntry {ref : Byte} {e : Entry} {queue : List Entry} (h : InOrder ref queue)
    (near : distance e.seq ref < 8) (new : ∀ q ∈ queue, q.seq ≠ e.seq) : InOrder ref (insertEntry ref e queue) := by
  refine ⟨?_, fun x hx => (mem_insertEntry.1 hx).elim (fun eq => eq ▸ near) (h.window x)⟩
  induction queue with
  | nil => simp [Machine.insertEntry]
  | cons q qs ih =>
    obtain ⟨first, later⟩ := List.pairwise_cons.1 h.ascending
    have apart : distance q.seq ref ≠ distance e.seq ref := fun eq => new q (by simp) (distance_injective eq)
    unfold Machine.insertEntry
    split
    · rename_i before
      refine List.pairwise_cons.2 ⟨fun x hx => ?_, h.ascending⟩
      rcases List.mem_cons.1 hx with rfl | hx
      · exact before
      · exact before.trans (first x hx)
    · refine List.pairwise_cons.2 ⟨fun x hx => ?_, ih ⟨later, fun x hx => h.window x (List.mem_cons_of_mem _ hx)⟩
        fun x hx => new x (List.mem_cons_of_mem _ hx)⟩
      rcases mem_insertEntry.1 hx with rfl | hx
      · omega
      · exact first x hx

theorem replaceEntry_seqs (e : Entry) (queue : List Entry) : (replaceEntry e queue).map Entry.seq = queue.map Entry.seq := by
  unfold replaceEntry
  rw [List.map_map]
  refine List.map_congr_left fun q _ => ?_
  simp only [Function.comp_apply]
  split
  · exact Eq.symm ‹_›
  · rfl

/-- Order speaks of the sequence numbers alone. -/
theorem InOrder.of_seqs {ref : Byte} {queue other : List Entry} (h : InOrder ref queue)
    (seqs : other.map Entry.seq = queue.map Entry.seq) : InOrder ref other := by
  refine ⟨?_, fun e he => ?_⟩
  · have mapped : (queue.map Entry.seq).Pairwise fun a b => distance a ref < distance b ref :=
      List.pairwise_map.2 h.ascending
    rw [← seqs] at mapped
    exact (List.pairwise_map (f := Entry.seq)).1 mapped
  · have : e.seq ∈ queue.map Entry.seq := seqs ▸ List.mem_map_of_mem he
    obtain ⟨q, hq, eq⟩ := List.mem_map.1 this
    exact eq ▸ h.window q hq

/-! ## The decision at a boundary -/

theorem Playout.Law.congr {p q : Playout} (law : p.Law) (queue : q.queue = p.queue) (nextSeq : q.nextSeq = p.nextSeq)
    (anchored : q.anchored = p.anchored) : q.Law := by
  rw [Playout.law_iff, queue, nextSeq, anchored]
  exact p.law_iff.1 law

@[simp] theorem Playout.playHead_queue (p : Playout) (head : Entry) (rest : List Entry) :
    (p.playHead head rest).playout.queue = rest := by
  unfold Playout.playHead; dsimp only; split <;> rfl

@[simp] theorem Playout.playHead_nextSeq (p : Playout) (head : Entry) (rest : List Entry) :
    (p.playHead head rest).playout.nextSeq = p.nextSeq + 1 := by
  unfold Playout.playHead; dsimp only; split <;> rfl

@[simp] theorem Playout.playHead_anchored (p : Playout) (head : Entry) (rest : List Entry) :
    (p.playHead head rest).playout.anchored = p.anchored := by
  unfold Playout.playHead; dsimp only; split <;> rfl

theorem Playout.Law.anchored_of_cons {p : Playout} (law : p.Law) {head : Entry} {rest : List Entry}
    (queue : p.queue = head :: rest) : p.anchored = true := by
  by_contra unanchored
  simpa [queue] using law.unanchored (by simpa using unanchored)

/-- The head has been played, next_seq standing at it. -/
theorem Playout.Law.playHead {p : Playout} (law : p.Law) {head : Entry} {rest : List Entry}
    (queue : p.queue = head :: rest) (q : Playout) (at_head : q.nextSeq = head.seq) (anchored : q.anchored = p.anchored) :
    (q.playHead head rest).playout.Law := by
  rw [Playout.law_iff]
  obtain ⟨order, -⟩ := p.law_iff.1 law
  rw [queue] at order
  refine ⟨?_, fun unanchored => ?_⟩
  · rw [Playout.playHead_nextSeq, Playout.playHead_queue, at_head]
    exact order.afterHead
  · rw [Playout.playHead_anchored, anchored, law.anchored_of_cons queue] at unanchored
    cases unanchored

theorem Playout.Law.playGap {p : Playout} (law : p.Law) (gap : ∀ head rest, p.queue = head :: rest → head.seq ≠ p.nextSeq) :
    p.playGap.playout.Law := by
  obtain ⟨order, unanchored⟩ := p.law_iff.1 law
  exact (Playout.law_iff _).2 ⟨order.afterGap gap, unanchored⟩

theorem Playout.Law.play {p : Playout} (law : p.Law) : p.play.playout.Law := by
  unfold Playout.play
  split
  · rename_i empty
    exact law.playGap (by simp [empty])
  · rename_i head rest queue
    split
    · rename_i stands
      exact law.playHead queue p stands.symm rfl
    · rename_i off
      refine law.playGap fun head' rest' queue' => ?_
      rw [queue] at queue'
      cases queue'
      exact off

theorem Playout.Law.decide {p : Playout} (law : p.Law) (depth limit : Nat) : (p.decide depth limit).playout.Law := by
  have playing : ({ p with state := .playing } : Playout).Law := law.congr rfl rfl rfl
  unfold Playout.decide
  split
  · split
    · exact playing.play
    · exact law.congr rfl rfl rfl
  · exact law.play
  · split
    · rename_i head rest queue
      exact law.playHead queue { p with state := .playing, nextSeq := head.seq } rfl rfl
    · exact law.congr rfl rfl rfl

/-! ## Arrivals -/

theorem Playout.Law.anchor {p : Playout} (law : p.Law) (seq : Byte) : (p.anchor seq).Law := by
  unfold Playout.anchor
  split
  · exact law
  · rename_i unanchored
    have empty := law.unanchored (by simpa using unanchored)
    exact (Playout.law_iff _).2 ⟨by simpa [empty] using InOrder.nil _, fun _ => empty⟩

@[simp] theorem Playout.anchor_anchored (p : Playout) (seq : Byte) : (p.anchor seq).anchored = true := by
  unfold Playout.anchor
  split
  · assumption
  · rfl

theorem Playout.Law.dispose {p : Playout} (law : p.Law) (anchored : p.anchored = true) (e : Entry) :
    (p.dispose e).1.Law := by
  have lawful (queue : List Entry) (order : InOrder p.nextSeq queue) : ({ p with queue := queue } : Playout).Law :=
    (Playout.law_iff _).2 ⟨order, by simp [anchored]⟩
  obtain ⟨order, -⟩ := p.law_iff.1 law
  unfold Playout.dispose
  dsimp only
  split
  · exact law
  · split
    · refine (Playout.law_iff _).2 ⟨⟨List.pairwise_singleton _ _, ?_⟩, by simp [anchored]⟩
      simp [distance_self]
    · rename_i near
      split
      · rename_i new
        exact lawful _ (order.insertEntry (by omega) fun q hq same => by simpa [same] using List.find?_eq_none.1 new q hq)
      · split
        · exact lawful _ (order.of_seqs (replaceEntry_seqs e p.queue))
        · exact law

/-- What an arrival leaves of the playout record: the disposal's, with the quality of a taken arrival. -/
theorem Channel.arrive_playout (c : Channel) (seq : Byte) (body : EntryBody) (request quality : BitVec 4) :
    (c.arrive seq body request quality).playout =
      if ((c.playout.anchor seq).dispose { seq := seq, body := body }).2.taken then
        ((c.playout.anchor seq).dispose { seq := seq, body := body }).1.takeQuality quality
      else ((c.playout.anchor seq).dispose { seq := seq, body := body }).1 := by
  unfold Channel.arrive
  dsimp only
  split
  · unfold Channel.takeRequest; split <;> rfl
  · rfl

theorem Channel.arrive_playout_law {c : Channel} (law : c.playout.Law) (seq : Byte) (body : EntryBody)
    (request quality : BitVec 4) : (c.arrive seq body request quality).playout.Law := by
  have disposed := (law.anchor seq).dispose (by simp) { seq := seq, body := body }
  rw [Channel.arrive_playout]
  split
  · exact disposed.congr rfl rfl rfl
  · exact disposed

/-! ## Every step -/

theorem Playout.start_law : Playout.start.Law :=
  (Playout.law_iff _).2 ⟨InOrder.nil _, fun _ => rfl⟩

theorem Channel.Change.playout_law {s t : State} {n : Nat} {d : Channel} (change : Channel.Change s t n d)
    (law : (s.channel n).playout.Law) : d.playout.Law := by
  cases change with
  | boundary b state bound =>
    have hn : n < 192 := State.lt_of_not_free (by rw [state]; decide)
    rw [State.openBoundary_playout hn b]
    exact (law.decide _ _).congr rfl rfl rfl
  | released k state only =>
    refine (Playout.law_iff _).2 ⟨?_, fun _ => rfl⟩
    exact InOrder.nil _
  | opened a accepted only context => exact Playout.start_law
  | arrive seq body request quality state frame => exact Channel.arrive_playout_law law seq body request quality
  | reported => exact law.congr rfl rfl rfl
  | late k l => simpa using law
  | same | abandoned | cleared | decoded _ _ _ | encoded _ _ _ | modified _ _ | closed _ => exact law

theorem Operation.playoutLaw {s t : State} (op : Operation s t) (law : PlayoutLaw s) : PlayoutLaw t := by
  intro n
  cases op.context n with
  | reset engine eq => rw [eq]; exact Playout.start_law
  | tick highways settled eq => rw [eq, Channel.tick_playout]; exact law n
  | change frame change => exact change.playout_law (law n)

/-- Settles O57: each operation keeps the laws of the queues, the ports and the playout, so every step does. -/
theorem stepKeepsQueueAndPlayoutLaws : Obligations.StepKeepsQueueAndPlayoutLaws :=
  ⟨⟨step_keeps fun _ _ => Operation.queueLaw, step_keeps fun _ _ => Operation.idlePortLaw⟩,
    step_keeps fun _ _ => Operation.playoutLaw⟩

end Sys2Proof.Machine

/-! The laws of the tables, of the tick's timing and of the health-change list (9.4, 2.3, 10.1). -/

namespace Sys2Proof.Machine

/-! ## Tables (R52, R116 to R118, R151, R168) -/

theorem clampSetting_idempotent (i v : Nat) : clampSetting i (clampSetting i v) = clampSetting i v := by
  match i with
  | 0 | 1 | 2 | 3 | 4 | 5 | 6 | 7 | _ + 8 => simp only [clampSetting]; omega

theorem Window.legal_of_bytes {bytes : List Byte} {w : Window} (h : Window.ofBytes? bytes = some w) :
    w.base.toNat ≤ w.limit.toNat ∧ w.first ≤ 191 := by
  unfold Window.ofBytes? at h
  split at h
  · dsimp only at h
    split at h
    · rename_i legal
      cases h
      exact legal.2
    · cases h
  · cases h

/-- Every entry of a vector after a write is the written one, or one that stood there. -/
theorem vector_all_setIfInBounds {α : Type} {size : Nat} {v : Vector α size} {p : Nat → α → Prop} {k : Nat} {x : α}
    (all : ∀ i (h : i < size), p i v[i]) (new : p k x) : ∀ i (h : i < size), p i (v.setIfInBounds k x)[i] := by
  intro i h
  rw [Vector.getElem_setIfInBounds h]
  split
  · rename_i eq; exact eq ▸ new
  · exact all i h

theorem State.writeEntry_tableLaw {s t : State} {id : TableId} {i : Nat} {bytes : List Byte}
    (written : s.writeEntry id i bytes = some t) (law : TableLaw s) : TableLaw t := by
  have cursor : t.management.cursor.index ≤ t.management.cursor.table.size := by
    rw [State.writeEntry_management written]; exact law.cursor
  unfold State.writeEntry at written
  cases id with
  | step =>
    cases written
    exact ⟨vector_all_setIfInBounds (p := fun _ v => 1 ≤ v ∧ v ≤ 16383) law.step (by omega), law.gain, law.fade,
      law.window, law.settings, cursor⟩
  | gain =>
    cases written
    exact ⟨law.step, vector_all_setIfInBounds (p := fun _ v => v ≤ 16383) law.gain (by omega), law.fade,
      law.window, law.settings, cursor⟩
  | fade =>
    cases written
    exact ⟨law.step, law.gain, vector_all_setIfInBounds (p := fun _ v => v ≤ 16383) law.fade (by omega),
      law.window, law.settings, cursor⟩
  | window =>
    obtain ⟨w, legal, rfl⟩ := Option.map_eq_some_iff.1 written
    exact ⟨law.step, law.gain, law.fade,
      vector_all_setIfInBounds (p := fun _ (w : Window) => w.base.toNat ≤ w.limit.toNat ∧ w.first ≤ 191) law.window
        (Window.legal_of_bytes legal),
      law.settings, cursor⟩
  | settings =>
    cases written
    exact ⟨law.step, law.gain, law.fade, law.window,
      vector_all_setIfInBounds (p := fun k v => clampSetting k v = v) law.settings (clampSetting_idempotent i _), cursor⟩

theorem TableLaw.afterReset (pins : ResetPins) (holdA holdB : Bool) (waiting : List Instr) :
    TableLaw (State.afterReset pins holdA holdB waiting) := by
  have step : ∀ i (h : i < 48), 1 ≤ resetStepTable[i] ∧ resetStepTable[i] ≤ 16383 := by decide
  have gain : ∀ i (h : i < 32), resetGainTable[i] ≤ 16383 := by decide
  have fade : ∀ i (h : i < 6), resetFadeTable[i] ≤ 16383 := by decide
  have window : ∀ i (h : i < 32), (Vector.replicate 32 Window.atReset)[i] = Window.atReset := by simp
  have settings : ∀ role i, (h : i < 8) →
      clampSetting i (resetSettings { resetStraps with hwyRole := role })[i] =
        (resetSettings { resetStraps with hwyRole := role })[i] := by decide
  exact ⟨step, gain, fade, fun i h => by simp only [State.afterReset, window i h]; decide, settings pins.straps.hwyRole, Nat.zero_le _⟩

theorem TableLaw.congr {s t : State} (law : TableLaw s) (tables : t.tables = s.tables)
    (cursor : t.management.cursor = s.management.cursor) : TableLaw t := by
  refine ⟨?_, ?_, ?_, ?_, ?_, by rw [cursor]; exact law.cursor⟩ <;> rw [tables]
  · exact law.step
  · exact law.gain
  · exact law.fade
  · exact law.window
  · exact law.settings

theorem State.respond_cursor (s : State) (seq : Byte) (payload : List Byte) (restart : Bool) :
    (s.respond seq payload restart).management.cursor = s.management.cursor := by
  unfold State.respond
  dsimp only
  split <;> simp

theorem State.completeA_tables (s : State) (sent : Sending) : (s.completeA sent).tables = s.tables := by
  rw [State.completeA_eq]
  split
  · rfl
  · rw [State.selectA_tables]; rfl

theorem State.completeA_cursor (s : State) (sent : Sending) :
    (s.completeA sent).management.cursor = s.management.cursor := by
  rw [State.completeA_eq]
  split
  · rfl
  · rw [State.selectA_management]; rfl

theorem Operation.tableLaw {s t : State} (op : Operation s t) (law : TableLaw s) : TableLaw t := by
  cases op with
  | endReset pins => exact TableLaw.afterReset ..
  | writeEntry id i bytes t written => exact State.writeEntry_tableLaw written law
  | cursor id i inTable =>
    refine ⟨law.step, law.gain, law.fade, law.window, law.settings, ?_⟩
    show i ≤ id.size
    rcases inTable with inTable | ⟨rfl, rfl⟩
    · exact inTable
    · exact law.cursor
  | completeA sent running => exact law.congr (s.completeA_tables sent) (s.completeA_cursor sent)
  | completeB running => exact law.congr (by simp [State.completeB]) (by simp)
  | respond seq payload restart running => exact law.congr (by simp) (s.respond_cursor seq payload restart)
  | beginReset => exact law.congr rfl rfl
  | standby running free => exact law.congr rfl rfl
  | operating running => exact law.congr rfl rfl
  | _ => exact law.congr (by simp) (by simp)

/-! ## Timing (R32, R33) -/

theorem nextFrame_lt (n : Nat) : nextFrame n < 160 := by
  unfold nextFrame
  split
  · assumption
  · decide

/-- The frame counter moves only at a tick and at the end of a reset, and only a tick makes the cycle boundary due. -/
theorem Operation.frame {s t : State} (op : Operation s t) :
    (t.highway.frameCounter = s.highway.frameCounter ∧ (t.highway.cycleDue = true → s.highway.cycleDue = true)) ∨
      (t.highway.frameCounter < 160 ∧ (t.highway.cycleDue = true → t.highway.frameCounter = 0)) := by
  cases op with
  | advance inputs settled => exact .inr ⟨nextFrame_lt _, by simp [State.advance]⟩
  | endReset pins => exact .inr ⟨by simp [State.endReset, State.afterReset], fun _ => rfl⟩
  | beginReset => exact .inl ⟨rfl, nofun⟩
  | cycleAdvance => exact .inl ⟨rfl, nofun⟩
  | completeA sent running =>
    refine .inl ⟨by simp, fun due => ?_⟩
    rw [State.completeA_eq] at due
    split at due
    · cases due
    · rw [State.selectA_highway] at due; exact due
  | completeB running => exact .inl ⟨by simp [State.completeB], by simp [State.completeB]⟩
  | writeEntry table i bytes t written =>
    obtain ⟨-, -, -, -, -, frame, cycle, -⟩ := State.writeEntry_frame written
    exact .inl ⟨frame, cycle ▸ id⟩
  | _ => exact .inl ⟨by simp, by simp⟩

/-- A context owes a boundary only while it is in use and the frame counter stands at its phase. -/
def Channel.DueAt (c : Channel) (frame : Nat) : Prop :=
  c.boundaryDue = true → c.state ≠ .free ∧ ∃ b, c.binding = some b ∧ b.phase = frame

theorem Channel.tick_dueAt {c : Channel} (settled : c.boundaryDue = false) (highways : Vector Highway 4) (frame : Nat) :
    (c.tick highways frame).DueAt frame := by
  intro due
  unfold Channel.tick at due
  split at due
  · rename_i owes
    obtain ⟨b, bound, phase⟩ := (Option.any_eq_true _ _).1 owes.2
    exact ⟨by simpa using owes.1, b, by simpa using bound, by simpa using phase⟩
  · rw [Channel.transfer_boundaryDue, settled] at due; cases due

theorem Channel.Change.dueAt {s t : State} {n frame : Nat} {d : Channel} (change : Channel.Change s t n d)
    (law : (s.channel n).DueAt frame) : d.DueAt frame := by
  have not_due {d : Channel} (clear : d.boundaryDue = false) : d.DueAt frame := fun due => by rw [clear] at due; cases due
  cases change with
  | boundary b state bound => exact not_due (by rw [State.openBoundary_boundaryDue, if_pos rfl])
  | closed state =>
    intro due
    exact ⟨by simp, (law due).2⟩
  | abandoned | cleared | released _ _ _ | opened _ _ _ _ => exact not_due rfl
  | late k l => simpa [Channel.DueAt] using law
  | arrive seq body request quality state frame => simpa [Channel.DueAt] using law
  | same | decoded _ _ _ | encoded _ _ _ | modified _ _ | reported => exact law

theorem Operation.timingLaw {s t : State} (op : Operation s t) (law : TimingLaw s) : TimingLaw t := by
  refine ⟨?_, fun due => ?_, fun n => ?_⟩
  · rcases op.frame with ⟨frame, -⟩ | ⟨frame, -⟩
    · rw [frame]; exact law.frame
    · exact frame
  · rcases op.frame with ⟨frame, cycle⟩ | ⟨-, cycle⟩
    · rw [frame]; exact law.cycle (cycle due)
    · exact cycle due
  · cases op.context n with
    | reset engine eq => rw [eq]; nofun
    | tick highways settled eq => rw [eq]; exact Channel.tick_dueAt settled highways _
    | change frame change => rw [frame]; exact change.dueAt (law.boundary n)

/-! ## The status across selections, offers and issues -/

/-- The health-change list stays, and counters within their limit stay within it. -/
structure Status.Follows (before after : Status) : Prop where
  healthChanged : after.healthChanged = before.healthChanged
  limited : before.counters.Limited → after.counters.Limited

theorem Status.Follows.of_eq {before after : Status} (healthChanged : after.healthChanged = before.healthChanged)
    (counters : after.counters = before.counters) : before.Follows after :=
  ⟨healthChanged, fun h => counters ▸ h⟩

theorem Status.Follows.trans {a b c : Status} (h : a.Follows b) (k : b.Follows c) : a.Follows c :=
  ⟨k.healthChanged.trans h.healthChanged, fun limited => k.limited (h.limited limited)⟩

theorem State.selectOriginated_follows (s : State) : s.status.Follows s.selectOriginated.status := by
  refine ⟨by simp [State.selectOriginated], fun limited => ?_⟩
  rw [DeviceCounters.limited_iff] at limited ⊢
  simp [State.selectOriginated, limited, countUp_le]

theorem State.selectA_follows (s : State) : s.status.Follows s.selectA.status := by
  unfold State.selectA
  split
  · split
    · exact .of_eq rfl rfl
    · exact s.selectOriginated_follows
    · exact .of_eq rfl rfl
  · exact .of_eq rfl rfl

/-- A drop that is counted, with or without its flag. -/
theorem State.count_follows (s : State) {f : DeviceCounters → DeviceCounters} (limited : ∀ c, c.Limited → (f c).Limited) :
    s.status.Follows (s.count f).status :=
  ⟨rfl, limited _⟩

theorem State.raise_follows (s : State) (flag : Flag) : s.status.Follows (s.raise flag).status :=
  .of_eq (by simp) (by simp)

theorem State.offerAToB_follows (s : State) (bytes : List Byte) : s.status.Follows (s.offerAToB bytes).status := by
  unfold State.offerAToB
  split
  · exact .of_eq (by rw [State.selectB_status]) (by rw [State.selectB_status])
  · exact (s.count_follows fun c h => by simp_all [DeviceCounters.limited_iff, countUp_le]).trans (State.raise_follows _ _)

theorem State.offerBToA_follows (s : State) (bytes : List Byte) : s.status.Follows (s.offerBToA bytes).status := by
  unfold State.offerBToA
  split
  · exact State.selectA_follows { s with links := { s.links with bToA := s.links.bToA ++ [bytes] } }
  · exact (s.count_follows fun c h => by simp_all [DeviceCounters.limited_iff, countUp_le]).trans (State.raise_follows _ _)

theorem State.offerNotice_follows (s : State) (bytes : List Byte) : s.status.Follows (s.offerNotice bytes).status := by
  unfold State.offerNotice
  split
  · exact (s.enterOriginated .notice bytes false).selectA_follows
  · exact .of_eq rfl rfl

theorem State.offerResponse_follows (s : State) (bytes : List Byte) (restarts : Bool) :
    s.status.Follows (s.offerResponse bytes restarts).status := by
  unfold State.offerResponse
  split
  · exact (s.enterOriginated .response bytes restarts).selectA_follows
  · exact s.count_follows fun c h => by simp_all [DeviceCounters.limited_iff, countUp_le]

theorem State.offerUnit_follows (s : State) (u : Option (UnitKind × List Byte)) : s.status.Follows (s.offerUnit u).status := by
  unfold State.offerUnit State.offerSpeech
  split
  · exact .of_eq rfl rfl
  · rename_i kind bytes
    split
    · exact (s.enterOriginated kind bytes false).selectA_follows
    · exact (s.count_follows fun c h => by simp_all [DeviceCounters.limited_iff, countUp_le]).trans (State.raise_follows _ _)

theorem State.respond_follows (s : State) (seq : Byte) (payload : List Byte) (restart : Bool) :
    s.status.Follows (s.respond seq payload restart).status := by
  unfold State.respond
  dsimp only
  split
  · exact State.offerResponse_follows { s with management := { s.management with restart := some _ } } _ _
  · exact s.offerResponse_follows _ _

theorem State.offerTrace_follows (s : State) (j : Job) (samples : List Sample) :
    s.status.Follows (s.offerTrace j samples).status := by
  unfold State.offerTrace
  split
  · split
    · exact State.raise_follows _ _
    · exact .of_eq rfl rfl
  · exact .of_eq rfl rfl

theorem State.completeA_follows (s : State) (sent : Sending) : s.status.Follows (s.completeA sent).status := by
  have freed : s.status.Follows (s.freedA sent).status := by
    refine ⟨rfl, fun limited => ?_⟩
    rw [DeviceCounters.limited_iff] at limited ⊢
    unfold State.freedA
    split <;> simp [limited, countUp_le]
  rw [State.completeA_eq]
  split
  · exact freed
  · exact freed.trans (s.freedA sent).selectA_follows

theorem State.issueJob_follows (s : State) (j : Job) : s.status.Follows (s.issueJob j).status := by
  obtain ⟨-, counters, healthChanged⟩ := s.issueJob_status j
  exact .of_eq healthChanged counters

theorem Status.healthMoved_ascending {st : Status} (ascending : st.healthChanged.Pairwise (· < ·)) (n : Nat)
    (before after : Health) : (st.healthMoved n before after).healthChanged.Pairwise (· < ·) := by
  unfold Status.healthMoved
  split
  · exact insertNumber_ascending n _ (by simpa using ascending)
  · exact insertNumber_ascending n _ (by simpa using ascending)
  · exact ascending

/-- The health-change list and the counters under every operation: the list stays, is emptied, or takes a context's health
transition; counters within their limit stay within it. -/
theorem Operation.status_follows {s t : State} (op : Operation s t) :
    s.status.Follows t.status ∨ (t.status.healthChanged = [] ∧ (s.status.counters.Limited → t.status.counters.Limited)) ∨
      ∃ n before after, n < 192 ∧ t.status = s.status.healthMoved n before after := by
  cases op with
  | endReset pins => exact .inr (.inl ⟨rfl, fun _ => DeviceCounters.limited_zero⟩)
  | noticeTaken => exact .inr (.inl ⟨rfl, id⟩)
  | openBoundary n b state bound =>
    have hn : n < 192 := State.lt_of_not_free (by rw [state]; decide)
    exact .inr (.inr ⟨n, _, _, hn, by rw [State.openBoundary_status, State.decidedBoundary_status s n b hn]⟩)
  | count f limited => exact .inl (s.count_follows limited)
  | offerAToB bytes running => exact .inl (s.offerAToB_follows bytes)
  | offerBToA bytes running => exact .inl (s.offerBToA_follows bytes)
  | offerNotice bytes running => exact .inl (s.offerNotice_follows bytes)
  | respond seq payload restart running => exact .inl (s.respond_follows seq payload restart)
  | holdReleased port running =>
    cases port with
    | a => exact .inl (s.withHold .a false).selectA_follows
    | b => exact .inl (.of_eq (by simp [State.select]) (by simp [State.select]))
  | completeA sent running => exact .inl (s.completeA_follows sent)
  | completeB running => exact .inl (.of_eq (by simp [State.completeB]) (by simp [State.completeB]))
  | issueJob j issuable => exact .inl (s.issueJob_follows j)
  | deliverDecode r running current kind delivers =>
    refine .inl ?_
    rw [State.deliverDecode, State.endRun_status]
    exact State.offerTrace_follows (s.updateChannel r.job.context fun c => c.takeDecode r.decode) _ _
  | deliverEncode r w running current work delivers =>
    refine .inl ?_
    rw [State.deliverEncode, State.endRun_status]
    exact (State.offerUnit_follows (s.updateChannel r.job.context fun c => c.takeEncode (r.encode w)) _).trans
      (State.offerTrace_follows _ _ _)
  | writeEntry id i bytes t written =>
    obtain ⟨-, -, -, status, -⟩ := State.writeEntry_frame written
    exact .inl (.of_eq (by rw [status]) (by rw [status]))
  | closeBoundary n state =>
    exact .inl (.of_eq (by simp [State.closeBoundary, State.voidJobs]) (by simp [State.closeBoundary, State.voidJobs]))
  | transitions => exact .inl (.of_eq (by simp [State.takeTransitions]) (by simp [State.takeTransitions]))
  | _ => exact .inl (.of_eq (by simp [State.advance]) (by simp [State.advance]))

theorem Operation.healthListLaw {s t : State} (op : Operation s t) (law : HealthListLaw s) : HealthListLaw t := by
  rcases op.status_follows with follows | ⟨empty, -⟩ | ⟨n, before, after, hn, eq⟩
  · exact ⟨follows.healthChanged ▸ law.ascending, follows.healthChanged ▸ law.contexts⟩
  · exact ⟨empty ▸ .nil, by simp [empty]⟩
  · refine ⟨eq ▸ Status.healthMoved_ascending law.ascending n before after, fun m hm => ?_⟩
    rw [eq] at hm
    rcases (Status.mem_healthMoved _ _ _ _ _).1 hm with old | ⟨rfl, -⟩
    · exact law.contexts m old
    · exact hn

/-- Settles O58: each operation keeps the laws of the tables, of the timing and of the health-change list, so every step
does. -/
theorem stepKeepsTableAndTimingLaws : Obligations.StepKeepsTableAndTimingLaws :=
  ⟨step_keeps fun _ _ => Operation.tableLaw, step_keeps fun _ _ => Operation.timingLaw,
    step_keeps fun _ _ => Operation.healthListLaw⟩

end Sys2Proof.Machine

/-! The jobs in flight (R94 to R97, R101, R103): at most one live job for each context and kind, each of a present call. -/

namespace Sys2Proof.Machine

/-! ## Jobs in flight -/

theorem Job.voidWhere_eq (p : Job → Bool) (j : Job) : j.voidWhere p = { j with void := p j || j.void } := by
  unfold Job.voidWhere
  cases h : p j <;> simp

@[simp] theorem Engine.inFlight_voidWhere (e : Engine) (p : Job → Bool) :
    (e.voidWhere p).inFlight = e.inFlight.map (Job.voidWhere p) := by
  unfold Engine.inFlight Engine.voidWhere
  cases e.current <;> simp

theorem State.takeJob_inFlight (s : State) : s.takeJob.engine.inFlight.Sublist s.engine.inFlight := by
  unfold State.takeJob
  split
  · exact .refl _
  · rename_i idle
    split
    · simp [Engine.inFlight, idle]
    · rename_i j js eq
      have left : (j :: js).Sublist s.engine.queue := eq ▸ List.dropWhile_sublist _
      simpa [Engine.inFlight, idle, State.startRun] using left

theorem State.endRun_inFlight (s : State) : s.endRun.engine.inFlight.Sublist s.engine.inFlight := by
  refine (State.takeJob_inFlight _).trans ?_
  simp [Engine.inFlight]

/-- An issue leaves the jobs in flight with those of the new job's context and kind voided, and the new job. -/
theorem State.issueJob_inFlight (s : State) (j : Job) :
    (s.issueJob j).engine.inFlight.Sublist (s.engine.inFlight.map (Job.voidWhere fun x => x.matches j.ref) ++ [j]) := by
  have voided : (s.voidJobs j.context fun x => x.matches j.ref).engine = s.engine.voidWhere fun x => x.matches j.ref := by
    rw [State.voidJobs_engine]; rfl
  unfold State.issueJob State.placeJob
  rw [← Engine.inFlight_voidWhere, ← voided]
  split
  · refine (State.takeJob_inFlight _).trans ?_
    simp [Engine.inFlight]
  · simp

theorem State.closeBoundary_inFlight (s : State) (n : Nat) :
    (s.closeBoundary n).engine.inFlight = s.engine.inFlight.map (Job.voidWhere fun j => j.context == n) := by
  rw [← Engine.inFlight_voidWhere]
  simp [State.closeBoundary, State.voidJobs]

/-- An operation adds no job but at an issue; it voids at an issue and where CLOSING completes. -/
theorem Operation.jobs {s t : State} (op : Operation s t) :
    t.engine.inFlight.Sublist s.engine.inFlight ∨ (∃ n, t = s.closeBoundary n) ∨ ∃ j, s.Issuable j ∧ t = s.issueJob j := by
  cases op with
  | issueJob j issuable => exact .inr (.inr ⟨j, issuable, rfl⟩)
  | closeBoundary n state => exact .inr (.inl ⟨n, rfl⟩)
  | beginReset => exact .inl (List.nil_sublist _)
  | endReset pins => exact .inl (List.nil_sublist _)
  | endRun r current => exact .inl s.endRun_inFlight
  | deliverDecode r running current kind delivers =>
    exact .inl ((State.endRun_inFlight _).trans (by simp))
  | deliverEncode r w running current work delivers =>
    exact .inl ((State.endRun_inFlight _).trans (by simp))
  | completeA sent running =>
    rw [State.completeA_eq]
    split
    · exact .inl (List.nil_sublist _)
    · exact .inl (by simp [State.freedA])
  | completeB running => exact .inl (by simp [State.completeB])
  | writeEntry id i bytes t written =>
    obtain ⟨-, engine, -⟩ := State.writeEntry_frame written
    exact .inl (by rw [engine])
  | _ => exact .inl (by simp)

/-! ## Live jobs -/

theorem liveCount_map_le (jobs : List Job) (p v : Job → Bool) (fields : ∀ (j : Job) void, p { j with void := void } = p j) :
    (jobs.map (Job.voidWhere v)).countP (fun j => p j && !j.void) ≤ jobs.countP fun j => p j && !j.void := by
  rw [List.countP_map]
  refine List.countP_mono_left fun j _ live => ?_
  simp only [Function.comp_apply, Job.voidWhere_eq, fields, Bool.and_eq_true, Bool.not_eq_true', Bool.or_eq_false_iff] at live ⊢
  exact ⟨live.1, live.2.2⟩

/-- After an issue the only live job of its context and kind is the new one. -/
theorem State.issueJob_live (s : State) (j : Job) (r : JobRef)
    (law : s.engine.liveCount (fun x => x.matches r) ≤ 1) : (s.issueJob j).engine.liveCount (fun x => x.matches r) ≤ 1 := by
  unfold Engine.liveCount at *
  dsimp only at *
  refine (s.issueJob_inFlight j).countP_le.trans ?_
  rw [List.countP_append]
  by_cases same : j.matches r = true
  · have none_left : (s.engine.inFlight.map (Job.voidWhere fun x => x.matches j.ref)).countP
        (fun x => x.matches r && !x.void) = 0 := by
      rw [List.countP_eq_zero]
      intro x hx live
      obtain ⟨y, -, rfl⟩ := List.mem_map.1 hx
      simp only [Job.matches, Job.ref, Job.voidWhere_eq, Bool.and_eq_true, beq_iff_eq, Bool.not_eq_true',
        Bool.or_eq_false_iff, Bool.and_eq_false_iff, beq_eq_false_iff_ne] at same live
      obtain ⟨⟨context, kind⟩, other | other, -⟩ := live
      · exact other (context.trans same.1.symm)
      · exact other (kind.trans same.2.symm)
    rw [none_left, Nat.zero_add]
    exact List.countP_le_length
  · have old := liveCount_map_le s.engine.inFlight (fun x => x.matches r) (fun x => x.matches j.ref) fun _ _ => rfl
    have new : [j].countP (fun x => x.matches r && !x.void) = 0 := by simp [same]
    omega

theorem Operation.jobs_single {s t : State} (op : Operation s t) {r : JobRef}
    (law : s.engine.liveCount (fun j => j.matches r) ≤ 1) : t.engine.liveCount (fun j => j.matches r) ≤ 1 := by
  rcases op.jobs with fewer | ⟨n, rfl⟩ | ⟨j, -, rfl⟩
  · exact fewer.countP_le.trans law
  · unfold Engine.liveCount at *
    rw [State.closeBoundary_inFlight]
    exact (liveCount_map_le _ _ _ fun _ _ => rfl).trans law
  · exact s.issueJob_live j r law

/-! ## Present calls -/

theorem State.delivers_iff (s : State) (j : Job) :
    s.delivers j = true ↔
      j.void = false ∧ j.generation = (s.channel j.context).generation ∧ (s.channel j.context).state ≠ .free := by
  simp [State.delivers, and_assoc]

theorem State.delivers_of_sameCall {s t : State} {j : Job} (delivers : s.delivers j = true)
    (same : (s.channel j.context).SameCall (t.channel j.context)) : t.delivers j = true := by
  rw [State.delivers_iff] at *
  obtain ⟨live, generation, use⟩ := delivers
  exact ⟨live, generation.trans same.generation.symm, fun free => use (same.free.1 free)⟩

/-- A context keeps its call, or the operation is one of the three that begin or end calls. -/
theorem Channel.Step.sameCall {s t : State} {n : Nat} (step : Channel.Step s t n) :
    (s.channel n).SameCall (t.channel n) ∨ t.engine.inFlight = [] ∨ t = s.closeBoundary n ∨
      ∃ a, s.openRefusal a = none ∧ n = a.context := by
  cases step with
  | reset engine eq => exact .inr (.inl (by rw [engine]; rfl))
  | tick highways settled eq => rw [eq]; exact .inl ⟨by simp, by simp, by simp⟩
  | change frame change =>
    rcases change.call with same | ⟨close, -⟩ | ⟨a, accepted, -, context, -⟩
    · exact .inl same
    · exact .inr (.inr (.inl close))
    · exact .inr (.inr (.inr ⟨a, accepted, context⟩))

/-- A live job that stays in flight still delivers. -/
theorem Operation.still_delivers {s t : State} (op : Operation s t) {j : Job} (before : s.delivers j = true)
    (flight : j ∈ t.engine.inFlight) : t.delivers j = true := by
  obtain ⟨live, -, use⟩ := (s.delivers_iff j).1 before
  rcases (op.context j.context).sameCall with same | empty | close | ⟨a, accepted, context⟩
  · exact State.delivers_of_sameCall before same
  · rw [empty] at flight; cases flight
  · rw [close, State.closeBoundary_inFlight] at flight
    obtain ⟨i, -, eq⟩ := List.mem_map.1 flight
    rw [Job.voidWhere_eq] at eq
    have context : i.context = j.context := by rw [← eq]
    rw [← eq] at live
    simp [context] at live
  · exact absurd (context ▸ (State.accepts_of_openRefusal accepted).free) use

/-- The job of an issue delivers until something ends its call. -/
theorem State.Issuable.delivers {s t : State} {j : Job} (issuable : s.Issuable j)
    (same : (s.channel j.context).SameCall (t.channel j.context)) : t.delivers j = true :=
  State.delivers_of_sameCall
    ((s.delivers_iff j).2 ⟨issuable.live, issuable.generation, by rw [issuable.state]; decide⟩) same

theorem State.issueJob_sameCall (s : State) (j : Job) (n : Nat) :
    (s.channel n).SameCall ((s.issueJob j).channel n) := by
  obtain ⟨k, l, eq⟩ := s.issueJob_channel_eq j n
  rw [eq]
  split
  · exact ⟨by simp, by simp, by simp⟩
  · exact .refl _

theorem Operation.jobLaw {s t : State} (op : Operation s t) (law : JobLaw s) : JobLaw t := by
  refine ⟨fun r => op.jobs_single (law.single r), fun j flight live => ?_⟩
  have voided {p : Job → Bool} (h : j ∈ s.engine.inFlight.map (Job.voidWhere p)) : j ∈ s.engine.inFlight := by
    obtain ⟨i, hi, rfl⟩ := List.mem_map.1 h
    simp only [Job.voidWhere_eq, Bool.or_eq_false_iff] at live ⊢
    rw [live.1, Bool.false_or]; exact hi
  rcases op.jobs with fewer | ⟨n, close⟩ | ⟨i, issuable, issue⟩
  · exact op.still_delivers (law.delivers j (fewer.subset flight) live) flight
  · have old : j ∈ s.engine.inFlight := by
      rw [close, State.closeBoundary_inFlight] at flight
      exact voided flight
    exact op.still_delivers (law.delivers j old live) flight
  · rcases List.mem_append.1 ((s.issueJob_inFlight i).subset (issue ▸ flight)) with old | new
    · exact op.still_delivers (law.delivers j (voided old) live) flight
    · obtain rfl : j = i := by simpa using new
      exact issue ▸ issuable.delivers (s.issueJob_sameCall j _)

end Sys2Proof.Machine

/-! The runs of the engine, and the laws of speech data, predictors and counters (4.1, 2.5, 10.5, 6.1, 2.2, 3.7, 4.5, 5.6). -/

namespace Sys2Proof.Machine

/-! ## The run in progress -/

theorem State.takeJob_current {s : State} {r : Run} (h : s.takeJob.engine.current = some r) :
    s.engine.current = some r ∨ ∃ j, j.void = false ∧ r = s.startRun j := by
  unfold State.takeJob at h
  split at h
  · exact .inl h
  · split at h
    · exact .inl h
    · rename_i j js eq
      have live : ¬j.void = true := by
        have := List.dropWhile_get_zero_not Job.void s.engine.queue (by rw [eq]; simp)
        simpa [eq] using this
      exact .inr ⟨j, by simpa using live, (Option.some.inj h).symm⟩

/-- A run starts with what the state holds of its context. -/
theorem State.startRun_congr {s t : State} (j : Job) (channel : s.channel j.context = t.channel j.context)
    (tables : s.tables = t.tables) : s.startRun j = t.startRun j := by
  unfold State.startRun
  rw [channel, tables]

theorem State.endRun_current {s : State} {r : Run} (h : s.endRun.engine.current = some r) :
    ∃ j, j.void = false ∧ r = s.endRun.startRun j := by
  rcases State.takeJob_current h with old | ⟨j, live, eq⟩
  · cases old
  · exact ⟨j, live, eq.trans (State.startRun_congr j (by simp; rfl) (by simp))⟩

/-- Two runs that differ in their job's void flag alone. -/
structure Run.Same (q r : Run) : Prop where
  codec : r.codec = q.codec
  collected : r.collected = q.collected
  work : r.job.work = q.job.work

/-- The run in progress after an operation was in progress before, or has just started from the state reached. -/
theorem Operation.run {s t : State} (op : Operation s t) {r : Run} (current : t.engine.current = some r) :
    (∃ q, s.engine.current = some q ∧ q.Same r) ∨ (r.job.void = false ∧ r = t.startRun r.job) := by
  have kept (h : s.engine.current = some r) : (∃ q, s.engine.current = some q ∧ q.Same r) ∨ (r.job.void = false ∧ r = t.startRun r.job) :=
    .inl ⟨r, h, rfl, rfl, rfl⟩
  have ended {u : State} (h : t = u.endRun) : (∃ q, s.engine.current = some q ∧ q.Same r) ∨ (r.job.void = false ∧ r = t.startRun r.job) := by
    subst h
    obtain ⟨j, live, rfl⟩ := State.endRun_current current
    exact .inr ⟨live, rfl⟩
  cases op with
  | beginReset => cases current
  | endReset pins => cases current
  | endRun q was => exact ended rfl
  | deliverDecode q running was kind delivers => exact ended rfl
  | deliverEncode q w running was work delivers => exact ended rfl
  | closeBoundary n state =>
    have voided : (s.engine.current.map fun q => { q with job := q.job.voidWhere fun j => j.context == n }) = some r := by
      simpa [State.closeBoundary, State.voidJobs_engine] using current
    obtain ⟨q, was, rfl⟩ := Option.map_eq_some_iff.1 voided
    exact .inl ⟨q, was, rfl, rfl, by simp [Job.voidWhere_eq]⟩
  | issueJob j issuable =>
    have voided {q : Run} (h : (s.voidJobs j.context fun x => x.matches j.ref).engine.current = some q) :
        ∃ p, s.engine.current = some p ∧ p.Same q := by
      rw [State.voidJobs_engine] at h
      obtain ⟨p, was, rfl⟩ := Option.map_eq_some_iff.1 h
      exact ⟨p, was, rfl, rfl, by simp [Job.voidWhere_eq]⟩
    unfold State.issueJob State.placeJob at current ⊢
    split at current
    · rw [if_pos ‹_›]
      rcases State.takeJob_current current with old | ⟨i, live, rfl⟩
      · exact .inl (voided old)
      · exact .inr ⟨live, State.startRun_congr i (by simp) (by simp)⟩
    · exact .inl (voided (by simpa using current))
  | completeA sent running =>
    rw [State.completeA_eq] at current
    split at current
    · cases current
    · exact kept (by simpa [State.freedA] using current)
  | completeB running => exact kept (by simpa [State.completeB] using current)
  | writeEntry id i bytes t written =>
    obtain ⟨-, engine, -⟩ := State.writeEntry_frame written
    exact kept (engine ▸ current)
  | _ => exact kept (by simpa using current)

/-! ## Predictors (R108) -/

theorem encodeSamples_predictor (step levels : Nat) (prev : Sample) (xs : List Sample) (h : inSampleRange prev) :
    inSampleRange (encodeSamples step levels prev xs).predictor := by
  induction xs generalizing prev with
  | nil => exact h
  | cons x xs ih => exact ih _ (saturate_range _)

theorem encodeSubblocks_predictor (table : Vector Nat 48) (mode : Mode) (count : Nat) (prev : Sample) (xs : List Sample)
    (h : inSampleRange prev) : inSampleRange (encodeSubblocks table mode count prev xs).predictor := by
  induction count generalizing prev xs with
  | zero => exact h
  | succ count ih => exact ih _ _ (encodeSamples_predictor _ _ _ _ h)

theorem Run.decode_predictor {r : Run} (h : inSampleRange r.codec.decoder) : inSampleRange r.decode.predictor := by
  unfold Run.decode
  split
  · exact (decodeSubblocks_range _ _ _ _ h).2
  · exact (decodeSubblocks_range _ _ _ _ h).2
  · exact (by decide : inSampleRange 0)

theorem EncoderState.outcome_predictor (e : EncoderState) (option silent : Bool) :
    (e.outcome option silent).2.predictor = e.predictor ∨ (e.outcome option silent).2.predictor = 0 := by
  unfold EncoderState.outcome
  split
  · split
    · split
      · dsimp only; split <;> simp
      · exact .inl rfl
    · split
      · split <;> exact .inl rfl
      · exact .inl rfl
  · exact .inl rfl

theorem Run.encode_predictor {r : Run} (w : EncodeWork) (h : inSampleRange r.codec.encoder.predictor) :
    inSampleRange (r.encode w).encoder.predictor := by
  have decided : inSampleRange
      (r.codec.encoder.outcome w.suppression (silentCycle w.threshold r.gained.samples)).2.predictor := by
    rcases r.codec.encoder.outcome_predictor w.suppression (silentCycle w.threshold r.gained.samples) with eq | eq
    · rw [eq]; exact h
    · rw [eq]; decide
  unfold Run.encode
  dsimp only
  split
  · exact encodeSubblocks_predictor _ _ _ _ _ h
  · exact decided
  · exact decided

/-- Both predictors of a codec record are samples. -/
def Codec.InRange (c : Codec) : Prop :=
  inSampleRange c.decoder ∧ inSampleRange c.encoder.predictor

theorem Codec.start_inRange : Codec.start.InRange := by
  unfold Codec.InRange Codec.start
  decide

theorem Channel.Change.predictors {s t : State} {n : Nat} {d : Channel} (change : Channel.Change s t n d)
    (law : (s.channel n).codec.InRange) (run : ∀ r, s.engine.current = some r → r.codec.InRange) : d.codec.InRange := by
  cases change with
  | boundary b state bound =>
    have hn : n < 192 := State.lt_of_not_free (by rw [state]; decide)
    rw [State.openBoundary_codec hn b, Channel.boundaryWork_codec]
    split <;> exact law
  | decoded r current kind => exact ⟨Run.decode_predictor (run r current).1, law.2⟩
  | encoded r w current => exact ⟨law.1, Run.encode_predictor w (run r current).2⟩
  | opened a accepted only context => exact Codec.start_inRange
  | late k l => simpa using law
  | released k state only => simpa [Channel.released] using law
  | arrive seq body request quality state frame => simpa using law
  | same | abandoned | cleared | modified _ _ | closed _ | reported => exact law

theorem Operation.predictorLaw {s t : State} (op : Operation s t) (law : PredictorLaw s) : PredictorLaw t := by
  have codec (n : Nat) : (t.channel n).codec.InRange := by
    cases op.context n with
    | reset engine eq => rw [eq]; exact Codec.start_inRange
    | tick highways settled eq => rw [eq, Channel.tick_codec]; exact law.codec n
    | change frame change => exact change.predictors (law.codec n) law.run
  refine ⟨codec, fun r current => ?_⟩
  rcases op.run current with ⟨q, was, same⟩ | ⟨-, started⟩
  · rw [same.codec]; exact law.run q was
  · rw [started]; exact codec r.job.context

/-! ## Counters (R27, R64, R78, R83, R87, R91, R107) -/

/-- Every counter of a context within its limit. -/
def ContextCounters.Limited (c : ContextCounters) : Prop :=
  ∀ k ∈ c.toList, k ≤ 65535

theorem ContextCounters.limited_iff (c : ContextCounters) :
    c.Limited ↔
      c.good ≤ 65535 ∧ c.damaged ≤ 65535 ∧ c.lost ≤ 65535 ∧ c.late ≤ 65535 ∧ c.duplicate ≤ 65535 ∧ c.resync ≤ 65535 ∧
        c.resyncDropped ≤ 65535 ∧ c.engineLate ≤ 65535 ∧ c.clip ≤ 65535 ∧ c.unitsSent ≤ 65535 ∧
        c.suppressed ≤ 65535 := by
  simp [ContextCounters.Limited, ContextCounters.toList]

theorem ContextCounters.limited_zero : ContextCounters.zero.Limited :=
  (ContextCounters.limited_iff _).2 (by decide)

theorem ContextCounters.Limited.decided {c : ContextCounters} (h : c.Limited) (counted : Counted) :
    (c.decided counted).Limited := by
  rw [ContextCounters.limited_iff] at *
  cases counted <;> simp [ContextCounters.decided, h, countUp_le]

theorem ContextCounters.Limited.disposed {c : ContextCounters} (h : c.Limited) (disposal : Disposal) :
    (c.disposed disposal).Limited := by
  rw [ContextCounters.limited_iff] at *
  cases disposal <;> simp [ContextCounters.disposed, h, countUp_le]

theorem Channel.lateBy_limited {c : Channel} (h : c.counters.Limited) (k : Nat) : (c.lateBy k).counters.Limited := by
  rw [Channel.lateBy_eq]
  rw [ContextCounters.limited_iff] at *
  dsimp only
  split <;> simp [h, countUp_le]

/-- An arrival counts its disposal. -/
theorem Channel.arrive_counters (c : Channel) (seq : Byte) (body : EntryBody) (request quality : BitVec 4) :
    (c.arrive seq body request quality).counters =
      c.counters.disposed ((c.playout.anchor seq).dispose { seq := seq, body := body }).2 := by
  unfold Channel.arrive
  dsimp only
  split
  · unfold Channel.takeRequest; split <;> rfl
  · rfl

theorem Channel.Change.counters {s t : State} {n : Nat} {d : Channel} (change : Channel.Change s t n d)
    (law : (s.channel n).counters.Limited) : d.counters.Limited := by
  cases change with
  | boundary b state bound =>
    have hn : n < 192 := State.lt_of_not_free (by rw [state]; decide)
    rw [State.openBoundary_counters hn b]
    exact law.decided _
  | released k state only => exact Channel.lateBy_limited law k
  | late k l => exact Channel.lateBy_limited (Channel.lateBy_limited law k) l
  | arrive seq body request quality state frame =>
    rw [Channel.arrive_counters]
    exact law.disposed _
  | decoded r current kind =>
    rw [ContextCounters.limited_iff] at law ⊢
    simp [Channel.takeDecode, law, countUp_le]
  | encoded r w current =>
    rw [ContextCounters.limited_iff] at law ⊢
    simp [Channel.takeEncode, law, countUp_le]
  | opened a accepted only context => exact ContextCounters.limited_zero
  | reported => exact ContextCounters.limited_zero
  | same | abandoned | cleared | modified _ _ | closed _ => exact law

/-- Every run and count of a playout record within its limit. -/
def Playout.Limited (p : Playout) : Prop :=
  p.primingCount ≤ 255 ∧ p.lossCount ≤ 255 ∧ p.health.goodRun ≤ 255 ∧ p.health.lostRun ≤ 255

theorem runUp_le (n : Nat) : runUp n ≤ 255 :=
  Nat.min_le_left _ _

theorem Playout.start_limited : Playout.start.Limited := by
  unfold Playout.Limited Playout.start
  decide

/-- The counts that a decision and an arrival change; the health record has its own rule. -/
def Playout.CountsLimited (p : Playout) : Prop :=
  p.primingCount ≤ 255 ∧ p.lossCount ≤ 255

theorem Playout.CountsLimited.playHead {p : Playout} (h : p.CountsLimited) (head : Entry) (rest : List Entry) :
    (p.playHead head rest).playout.CountsLimited := by
  unfold Playout.playHead
  dsimp only
  split
  · exact ⟨h.1, Nat.zero_le _⟩
  · exact ⟨h.1, Nat.zero_le _⟩
  · exact ⟨h.1, runUp_le _⟩

theorem Playout.CountsLimited.play {p : Playout} (h : p.CountsLimited) : p.play.playout.CountsLimited := by
  have gap : p.playGap.playout.CountsLimited := ⟨h.1, runUp_le _⟩
  unfold Playout.play
  split
  · exact gap
  · split
    · exact h.playHead _ _
    · exact gap

theorem Playout.CountsLimited.decide {p : Playout} (h : p.CountsLimited) (depth limit : Nat) :
    (p.decide depth limit).playout.CountsLimited := by
  unfold Playout.decide
  split
  · split
    · exact Playout.CountsLimited.play (p := { p with state := .playing }) h
    · exact ⟨runUp_le _, h.2⟩
  · exact h.play
  · split
    · exact Playout.CountsLimited.playHead (p := { p with state := .playing, nextSeq := _ }) h _ _
    · exact h

theorem HealthRecord.record_limited {h : HealthRecord} (law : h.goodRun ≤ 255 ∧ h.lostRun ≤ 255) (nGood nLost : Nat)
    (recorded : Recorded) :
    (h.record nGood nLost recorded).goodRun ≤ 255 ∧ (h.record nGood nLost recorded).lostRun ≤ 255 := by
  cases recorded with
  | good => exact ⟨runUp_le _, Nat.zero_le _⟩
  | lost => exact ⟨Nat.zero_le _, runUp_le _⟩
  | nothing => exact law

theorem Playout.Limited.dispose {p : Playout} (h : p.Limited) (seq : Byte) (e : Entry) :
    ((p.anchor seq).dispose e).1.Limited := by
  have anchored : (p.anchor seq).Limited := by
    unfold Playout.anchor
    split
    · exact h
    · exact ⟨Nat.zero_le _, h.2⟩
  unfold Playout.dispose
  dsimp only
  split
  · exact anchored
  · split
    · exact ⟨Nat.zero_le _, anchored.2⟩
    · split
      · exact anchored
      · split <;> exact anchored

theorem Channel.Change.playout_limited {s t : State} {n : Nat} {d : Channel} (change : Channel.Change s t n d)
    (law : (s.channel n).playout.Limited) : d.playout.Limited := by
  obtain ⟨priming, loss, health⟩ := law
  cases change with
  | boundary b state bound =>
    have hn : n < 192 := State.lt_of_not_free (by rw [state]; decide)
    rw [State.openBoundary_playout hn b]
    obtain ⟨priming', loss'⟩ := Playout.CountsLimited.decide ⟨priming, loss⟩ b.depth (s.tables.setting 7)
    exact ⟨priming', loss', HealthRecord.record_limited health _ _ _⟩
  | arrive seq body request quality state frame =>
    rw [Channel.arrive_playout]
    have disposed := Playout.Limited.dispose ⟨priming, loss, health⟩ seq { seq := seq, body := body }
    split <;> exact disposed
  | opened a accepted only context => exact Playout.start_limited
  | late k l => simpa [Playout.Limited] using ⟨priming, loss, health⟩
  | released k state only => simpa [Channel.released, Playout.Limited] using ⟨priming, loss, health⟩
  | same | abandoned | cleared | decoded _ _ _ | encoded _ _ _ | modified _ _ | closed _ | reported =>
    exact ⟨priming, loss, health⟩

/-- Both counts of a highway within their limit. -/
def Highway.Limited (h : Highway) : Prop :=
  h.goodCount ≤ 255 ∧ h.badCount ≤ 255

theorem Highway.judged_limited (h : Highway) (good : Bool) (nIn nOut : Nat) (input : HighwayInput) :
    (h.judged good nIn nOut input).Limited := by
  have count (n : Nat) : judgeCount n ≤ 255 := Nat.min_le_left _ _
  cases good with
  | true => exact ⟨count _, Nat.zero_le _⟩
  | false => exact ⟨Nat.zero_le _, count _⟩

/-- The highways change at a tick, at a reset's end and where a settings write resets supervision. -/
theorem Operation.highways {s t : State} (op : Operation s t) (law : ∀ i : Fin 4, s.highway.highways[i].Limited)
    (i : Fin 4) : t.highway.highways[i].Limited := by
  cases op with
  | advance inputs settled =>
    simp only [State.advance, State.judgedHighways, Fin.getElem_fin, Vector.getElem_ofFn]
    exact Highway.judged_limited ..
  | endReset pins =>
    simp only [State.endReset, State.afterReset, Fin.getElem_fin, Vector.getElem_replicate]
    exact ⟨Nat.zero_le _, Nat.zero_le _⟩
  | writeEntry id k bytes t written =>
    unfold State.writeEntry at written
    cases id with
    | step => cases written; exact law i
    | gain => cases written; exact law i
    | fade => cases written; exact law i
    | window =>
      obtain ⟨w, -, rfl⟩ := Option.map_eq_some_iff.1 written
      exact law i
    | settings =>
      cases written
      unfold State.writeSetting
      dsimp only
      split
      · simp only [HighwayPort.superviseAfresh, Fin.getElem_fin, Vector.getElem_ofFn]
        exact ⟨Nat.zero_le _, Nat.zero_le _⟩
      · exact law i
  | completeA sent running =>
    rw [State.completeA_eq]
    split
    · exact law i
    · simpa [State.freedA] using law i
  | completeB running => rw [State.completeB, State.selectB_highway]; exact law i
  | beginReset => exact law i
  | cycleAdvance => exact law i
  | _ => simpa using law i

theorem Operation.counterLaw {s t : State} (op : Operation s t) (law : CounterLaw s) : CounterLaw t := by
  refine ⟨?_, fun n => ?_, fun n => ?_, op.highways law.highway⟩
  · rcases op.status_follows with follows | ⟨-, limited⟩ | ⟨n, before, after, -, eq⟩
    · exact follows.limited law.device
    · exact limited law.device
    · rw [eq, Status.healthMoved_counters]; exact law.device
  · cases op.context n with
    | reset engine eq => rw [eq]; exact ContextCounters.limited_zero
    | tick highways settled eq => rw [eq, Channel.tick_counters]; exact law.context n
    | change frame change => exact change.counters (law.context n)
  · cases op.context n with
    | reset engine eq => rw [eq]; exact Playout.start_limited
    | tick highways settled eq => rw [eq, Channel.tick_playout]; exact law.playout n
    | change frame change => exact change.playout_limited (law.playout n)

end Sys2Proof.Machine

/-! The speech data stay whole (4.1, 2.5, 10.5): frames well formed, buffers and traces of 160. -/

namespace Sys2Proof.Machine

/-! ## Frames of a playout record -/

/-- Every frame of a playout record is well formed. -/
structure Playout.Whole (p : Playout) : Prop where
  queued : ∀ e ∈ p.queue, ∀ f, e.body.frame? = some f → f.WellFormed
  lastGood : ∀ f, p.lastGood = some f → f.WellFormed

theorem Playout.start_whole : Playout.start.Whole :=
  ⟨nofun, nofun⟩

theorem Playout.Whole.congr {p q : Playout} (h : p.Whole) (queue : q.queue ⊆ p.queue) (lastGood : q.lastGood = p.lastGood) :
    q.Whole :=
  ⟨fun e he => h.queued e (queue he), fun f eq => h.lastGood f (lastGood ▸ eq)⟩

theorem Playout.Whole.playHead {p : Playout} (h : p.Whole) {head : Entry} {rest : List Entry}
    (sub : head :: rest ⊆ p.queue) : (p.playHead head rest).playout.Whole := by
  have queued : ∀ e ∈ rest, ∀ f, e.body.frame? = some f → f.WellFormed :=
    fun e he => h.queued e (sub (List.mem_cons_of_mem _ he))
  unfold Playout.playHead
  dsimp only
  split
  · rename_i f body
    refine ⟨queued, fun g eq => ?_⟩
    obtain rfl : f = g := by simpa using eq
    exact h.queued head (sub (by simp)) f (by rw [body]; rfl)
  · exact ⟨queued, nofun⟩
  · exact ⟨queued, h.lastGood⟩

theorem Playout.Whole.play {p : Playout} (h : p.Whole) : p.play.playout.Whole := by
  have gap : p.playGap.playout.Whole := h.congr (fun _ he => he) rfl
  unfold Playout.play
  split
  · exact gap
  · rename_i head rest queue
    split
    · exact h.playHead (by rw [queue]; exact fun _ he => he)
    · exact gap

theorem Playout.Whole.decide {p : Playout} (h : p.Whole) (depth limit : Nat) : (p.decide depth limit).playout.Whole := by
  unfold Playout.decide
  split
  · split
    · exact Playout.Whole.play (p := { p with state := .playing }) ⟨h.queued, h.lastGood⟩
    · exact ⟨h.queued, h.lastGood⟩
  · exact h.play
  · split
    · rename_i head rest queue
      exact Playout.Whole.playHead (p := { p with state := .playing, nextSeq := head.seq }) ⟨h.queued, h.lastGood⟩
        (by rw [queue]; exact fun _ he => he)
    · exact ⟨h.queued, h.lastGood⟩

theorem Playout.Whole.anchor {p : Playout} (h : p.Whole) (seq : Byte) : (p.anchor seq).Whole := by
  unfold Playout.anchor
  split
  · exact h
  · exact ⟨h.queued, h.lastGood⟩

/-- Of the entries after a disposal, each was queued or is the arrival's. -/
theorem Playout.dispose_queue {p : Playout} {e x : Entry} (h : x ∈ (p.dispose e).1.queue) : x = e ∨ x ∈ p.queue := by
  unfold Playout.dispose at h
  dsimp only at h
  split at h
  · exact .inr h
  · split at h
    · exact .inl (by simpa using h)
    · split at h
      · exact mem_insertEntry.1 h
      · split at h
        · obtain ⟨q, hq, eq⟩ := List.mem_map.1 h
          split at eq
          · exact .inl eq.symm
          · exact .inr (eq ▸ hq)
        · exact .inr h

theorem Playout.dispose_lastGood (p : Playout) (e : Entry) : (p.dispose e).1.lastGood = p.lastGood := by
  unfold Playout.dispose
  dsimp only
  split
  · rfl
  · split
    · rfl
    · split
      · rfl
      · split <;> rfl

theorem Channel.arrive_whole {c : Channel} (h : c.playout.Whole) (seq : Byte) {body : EntryBody} (request quality : BitVec 4)
    (frame : ∀ f, body.frame? = some f → f.WellFormed) : (c.arrive seq body request quality).playout.Whole := by
  have disposed : ((c.playout.anchor seq).dispose { seq := seq, body := body }).1.Whole := by
    refine ⟨fun e he => ?_, fun f eq => (h.anchor seq).lastGood f (Playout.dispose_lastGood _ _ ▸ eq)⟩
    rcases Playout.dispose_queue he with rfl | old
    · exact frame
    · exact (h.anchor seq).queued e old
  rw [Channel.arrive_playout]
  split
  · exact disposed.congr (fun _ he => he) rfl
  · exact disposed

theorem Channel.Change.whole {s t : State} {n : Nat} {d : Channel} (change : Channel.Change s t n d)
    (law : (s.channel n).playout.Whole) : d.playout.Whole := by
  cases change with
  | boundary b state bound =>
    have hn : n < 192 := State.lt_of_not_free (by rw [state]; decide)
    rw [State.openBoundary_playout hn b]
    exact (law.decide _ _).congr (fun _ he => he) rfl
  | released k state only => exact law.congr (by simp [Channel.released]) (by simp [Channel.released])
  | opened a accepted only context => exact Playout.start_whole
  | arrive seq body request quality state frame => exact Channel.arrive_whole law seq request quality frame
  | reported => exact law.congr (fun _ he => he) rfl
  | late k l => simpa using law
  | same | abandoned | cleared | decoded _ _ _ | encoded _ _ _ | modified _ _ | closed _ => exact law

theorem Operation.whole {s t : State} (op : Operation s t) {n : Nat} (law : (s.channel n).playout.Whole) :
    (t.channel n).playout.Whole := by
  cases op.context n with
  | reset engine eq => rw [eq]; exact Playout.start_whole
  | tick highways settled eq => rw [eq, Channel.tick_playout]; exact law
  | change frame change => exact change.whole law

/-! ## Buffers -/

/-- The four buffers hold 160 codes each. -/
structure Buffers.Whole (b : Buffers) : Prop where
  playing : b.playing.length = 160
  next : b.next.length = 160
  firstBank : b.firstBank.length = 160
  secondBank : b.secondBank.length = 160

@[simp] theorem Law.idleBuffer_length (law : Law) : law.idleBuffer.length = 160 := by
  simp [Law.idleBuffer]

theorem Buffers.Whole.atOpen (law : Law) : (Buffers.atOpen law).Whole := by
  constructor <;> exact law.idleBuffer_length

theorem Buffers.Whole.exchange {b : Buffers} (h : b.Whole) (law : Law) : (b.exchange law).Whole := by
  unfold Buffers.exchange
  split
  · exact ⟨h.next, h.playing, h.firstBank, h.secondBank⟩
  · exact ⟨law.idleBuffer_length, h.next, h.firstBank, h.secondBank⟩

theorem Buffers.Whole.collect {b : Buffers} (h : b.Whole) (position : Nat) (code : Byte) :
    (b.collect position code).Whole := by
  unfold Buffers.collect
  split
  · exact ⟨h.playing, h.next, by simpa using h.firstBank, h.secondBank⟩
  · exact ⟨h.playing, h.next, h.firstBank, by simpa using h.secondBank⟩

theorem Channel.transfer_buffers_whole {c : Channel} (h : c.buffers.Whole) (highways : Vector Highway 4) (frame : Nat) :
    (c.transfer highways frame).buffers.Whole := by
  unfold Channel.transfer
  split
  · exact h
  · exact h
  · dsimp only
    split
    · exact h
    · exact h.collect _ _

theorem Channel.tick_buffers_whole {c : Channel} (h : c.buffers.Whole) (highways : Vector Highway 4) (frame : Nat) :
    (c.tick highways frame).buffers.Whole := by
  unfold Channel.tick
  split
  · exact h
  · exact Channel.transfer_buffers_whole h _ _

theorem State.openBoundary_buffers_whole {s : State} {n : Nat} (hn : n < 192) (b : Binding)
    (h : (s.channel n).buffers.Whole) : ((s.openBoundary n b).channel n).buffers.Whole := by
  rw [State.openBoundary_channel_self s n b hn, State.decidedBoundary_channel_self s n b hn]
  refine Channel.transfer_buffers_whole ?_ _ _
  show ((s.channel n).boundaryWork b s.stagingHold).buffers.Whole
  rw [Channel.boundaryWork_buffers]
  have exchanged := h.exchange b.law
  split
  · exact exchanged
  · exact ⟨exchanged.playing, exchanged.next, exchanged.firstBank, exchanged.secondBank⟩

/-! ## What a run makes -/

/-- A run makes 160 codes and 160 samples of a well-formed frame, or of none. -/
theorem Run.decode_length {r : Run} (frame : ∀ f, r.job.work.frame? = some f → f.WellFormed) :
    r.decode.codes.length = 160 ∧ r.decode.samples.length = 160 := by
  unfold Run.decode
  split
  · rename_i f work
    have := decodeFrame_length r.step r.codec.decoder (frame f (by rw [work]; rfl))
    simp [this]
  · rename_i k f work
    have := decodeFrame_length r.step r.codec.decoder (frame f (by rw [work]; rfl))
    simp [this]
  · exact ⟨Law.idleBuffer_length _, List.length_replicate ..⟩

theorem Run.encode_samples (r : Run) (w : EncodeWork) : (r.encode w).samples = r.gained.samples := by
  unfold Run.encode
  dsimp only
  split <;> rfl

theorem Run.encode_samples_length (r : Run) (w : EncodeWork) : (r.encode w).samples.length = r.collected.length := by
  rw [Run.encode_samples]
  simp [Run.gained]

/-! ## The trace -/

theorem State.offerTrace_filled {s : State} {j : Job} {samples taken : List Sample} {a : Arming}
    (h : (s.offerTrace j samples).trace = .filled a taken) : s.trace = .filled a taken ∨ taken = samples := by
  unfold State.offerTrace at h
  split at h
  · split at h
    · simp only [State.raise_trace, Trace.filled.injEq] at h
      exact .inr h.2.symm
    · exact .inl h
  · exact .inl h

/-- What an operation fills a trace with: the samples of a run that delivers. -/
theorem Operation.filled {s t : State} (op : Operation s t) {a : Arming} {samples : List Int}
    (h : t.trace = .filled a samples) :
    s.trace = .filled a samples ∨ ∃ r, s.engine.current = some r ∧
      (samples = r.decode.samples ∨ ∃ w, r.job.work = .encode w ∧ samples = (r.encode w).samples) := by
  cases op with
  | deliverDecode r running current kind delivers =>
    rw [State.deliverDecode, State.endRun_trace] at h
    rcases State.offerTrace_filled h with old | eq
    · exact .inl (by simpa using old)
    · exact .inr ⟨r, current, .inl eq⟩
  | deliverEncode r w running current work delivers =>
    rw [State.deliverEncode, State.endRun_trace] at h
    rcases State.offerTrace_filled h with old | eq
    · exact .inl (by simpa using old)
    · exact .inr ⟨r, current, .inr ⟨w, work, eq⟩⟩
  | closeBoundary n state =>
    refine .inl ?_
    have closed : s.trace.closing n = .filled a samples := by simpa [State.closeBoundary] using h
    unfold Trace.closing at closed
    split at closed
    · split at closed
      · cases closed
      · exact closed
    · exact closed
  | endReset pins => cases h
  | traceArmed n p => cases h
  | completeA sent running =>
    refine .inl ?_
    rw [State.completeA_eq] at h
    split at h
    · simpa [State.freedA] using h
    · simpa [State.freedA] using h
  | completeB running => exact .inl (by simpa [State.completeB] using h)
  | writeEntry id i bytes t written =>
    obtain ⟨-, -, -, -, trace, -⟩ := State.writeEntry_frame written
    exact .inl (trace ▸ h)
  | _ => exact .inl (by simpa using h)

/-! ## The law -/

theorem Engine.current_inFlight {e : Engine} {r : Run} (current : e.current = some r) : r.job ∈ e.inFlight := by
  simp [Engine.inFlight, current]

section Step
variable {s t : State} (jobs : JobLaw s) (law : SpeechDataLaw s)
include law

theorem SpeechDataLaw.buffers_whole {n : Nat} (use : (s.channel n).state ≠ .free) : (s.channel n).buffers.Whole := by
  obtain ⟨playing, next, firstBank, secondBank⟩ := law.buffers n use
  exact ⟨playing, next, firstBank, secondBank⟩

theorem SpeechDataLaw.run_frame {r : Run} (current : s.engine.current = some r) {f : Frame}
    (frame : r.job.work.frame? = some f) : f.WellFormed :=
  law.jobs r.job (Engine.current_inFlight current) f frame

/-- An operation keeps the buffers of every context in use whole. -/
theorem Operation.buffers_whole (op : Operation s t) {n : Nat} (use : (t.channel n).state ≠ .free) :
    (t.channel n).buffers.Whole := by
  cases op.context n with
  | reset engine eq => rw [eq] at use; exact absurd rfl use
  | tick highways settled eq =>
    rw [eq] at use ⊢
    exact Channel.tick_buffers_whole (law.buffers_whole (by simpa using use)) _ _
  | change frame change =>
    generalize t.channel n = d at change use
    cases change with
    | boundary b state bound =>
      have use : (s.channel n).state ≠ .free := by rw [state]; decide
      exact State.openBoundary_buffers_whole (State.lt_of_not_free use) b (law.buffers_whole use)
    | released k state only => exact absurd rfl use
    | decoded r current kind =>
      obtain ⟨playing, next, firstBank, secondBank⟩ := law.buffers_whole use
      exact ⟨playing, (Run.decode_length fun f => law.run_frame current).1, firstBank, secondBank⟩
    | opened a accepted only context => exact .atOpen a.law
    | closed state => exact law.buffers_whole (by rw [state]; decide)
    | late k l => simpa using law.buffers_whole (by simpa using use)
    | arrive seq body request quality state frame => simpa using law.buffers_whole (by simpa using use)
    | same | abandoned | cleared | encoded _ _ _ | modified _ _ | reported => exact law.buffers_whole use

/-- An operation keeps the frame of every job in flight well formed. -/
theorem Operation.job_frames (op : Operation s t) {j : Job} (flight : j ∈ t.engine.inFlight) {f : Frame}
    (frame : j.work.frame? = some f) : f.WellFormed := by
  have voided {p : Job → Bool} (h : j ∈ s.engine.inFlight.map (Job.voidWhere p)) : f.WellFormed := by
    obtain ⟨i, hi, rfl⟩ := List.mem_map.1 h
    rw [Job.voidWhere_eq] at frame
    exact law.jobs i hi f frame
  rcases op.jobs with fewer | ⟨n, rfl⟩ | ⟨i, issuable, rfl⟩
  · exact law.jobs j (fewer.subset flight) f frame
  · rw [State.closeBoundary_inFlight] at flight
    exact voided flight
  · rcases List.mem_append.1 ((s.issueJob_inFlight i).subset flight) with old | new
    · exact voided old
    · obtain rfl : j = i := by simpa using new
      exact law.lastGood j.context f (issuable.frame f frame)

/-- A run that has just started is of a live job, so its context is in use and the buffer it reads is whole. -/
theorem Operation.run_collected (jobs : JobLaw s) (op : Operation s t) {r : Run} {w : EncodeWork}
    (current : t.engine.current = some r) (work : r.job.work = .encode w) : r.collected.length = 160 := by
  rcases op.run current with ⟨q, was, same⟩ | ⟨live, started⟩
  · rw [same.collected]
    exact law.run q w was (same.work ▸ work)
  · have delivers := (op.jobLaw jobs).delivers r.job (Engine.current_inFlight current) live
    have whole := op.buffers_whole law ((State.delivers_iff _ _).1 delivers).2.2
    rw [started]
    simp only [State.startRun, work, Buffers.collected]
    split
    · exact whole.firstBank
    · exact whole.secondBank

theorem Operation.speechDataLaw (jobs : JobLaw s) (op : Operation s t) : SpeechDataLaw t := by
  have playout (n : Nat) : (t.channel n).playout.Whole := op.whole ⟨law.queued n, law.lastGood n⟩
  refine ⟨fun n => (playout n).queued, fun n => (playout n).lastGood, fun j flight f => op.job_frames law flight,
    fun n use => ?_, fun r w => op.run_collected law jobs, fun a samples filled => ?_⟩
  · obtain ⟨playing, next, firstBank, secondBank⟩ := op.buffers_whole law use
    exact ⟨playing, next, firstBank, secondBank⟩
  · rcases op.filled filled with old | ⟨r, current, rfl | ⟨w, work, rfl⟩⟩
    · exact law.trace a samples old
    · exact (Run.decode_length fun f => law.run_frame current).2
    · rw [Run.encode_samples_length]
      exact law.run r w current work

end Step

/-- Settles O59: each operation keeps the laws of the jobs, the speech data, the predictors and the counters, so every step
does. -/
theorem stepKeepsJobSpeechAndCounterLaws : Obligations.StepKeepsJobSpeechAndCounterLaws := by
  have jobLaw : ∀ s t, JobLaw s → step s = .next t → JobLaw t := step_keeps fun _ _ => Operation.jobLaw
  have both := step_keeps (P := fun s => JobLaw s ∧ SpeechDataLaw s) fun _ _ op law =>
    ⟨op.jobLaw law.1, op.speechDataLaw law.2 law.1⟩
  exact ⟨⟨jobLaw, fun s t jobs speech h => (both s t ⟨jobs, speech⟩ h).2⟩, step_keeps fun _ _ => Operation.predictorLaw,
    step_keeps fun _ _ => Operation.counterLaw⟩

end Sys2Proof.Machine

/-! The whole machine: the step, what every command leaves, and the resets (8.5, 8.6). -/

namespace Sys2Proof.Machine

/-! ## The step -/

/-- Settles O1: the two branches of the step. -/
theorem stepRunsFrontCommand : Obligations.StepRunsFrontCommand := by
  refine ⟨fun c rest s waits => ?_, fun s empty => ?_⟩
  · unfold step; rw [waits]
  · unfold step; rw [empty]

/-! ## The queue of waiting commands -/

theorem State.writeEntries_pending (id : TableId) (entries : List (List Byte)) (i : Nat) (s : State) :
    (State.writeEntries id entries i s).state.pending = s.pending := by
  induction entries generalizing i s with
  | nil => rfl
  | cons e es ih =>
    unfold State.writeEntries
    split
    · rfl
    · split
      · rfl
      · rename_i t written
        obtain ⟨-, -, -, -, -, -, -, -, pending⟩ := State.writeEntry_frame written
        exact (ih (i + 1) t).trans pending

theorem State.writeFrom_pending (s : State) (id : TableId) (start : Nat) (entries : List (List Byte)) :
    (s.writeFrom id start entries).state.pending = s.pending := by
  unfold State.writeFrom
  split
  · rfl
  · exact State.writeEntries_pending id entries start s

theorem Command.run_pending (c : Command) (last : Bool) (args : List Byte) (s : State) :
    (c.run last args s).state.pending = s.pending := by
  cases c with
  | identify => simp only [Command.run, cmdIdentify]; split <;> rfl
  | setState =>
    simp only [Command.run, cmdSetState]
    split
    · split
      · split <;> rfl
      · rfl
      · rfl
    · rfl
  | hold => simp only [Command.run, cmdHold]; split <;> rfl
  | release => simp only [Command.run, cmdRelease]; split <;> rfl
  | restart => simp only [Command.run, cmdRestart]; repeat' split <;> try rfl
  | openCall =>
    simp only [Command.run, cmdOpen]
    split
    · rfl
    · split <;> rfl
  | modify =>
    simp only [Command.run, cmdModify]
    repeat' split <;> try rfl
  | close =>
    simp only [Command.run, cmdClose]
    repeat' split <;> try rfl
  | contextReport =>
    simp only [Command.run, cmdContextReport]
    repeat' split <;> try rfl
  | writeTable =>
    simp only [Command.run, cmdWriteTable]
    repeat' split <;> try rfl
    exact s.writeFrom_pending _ _ _
  | writeNext =>
    simp only [Command.run, cmdWriteNext]
    split
    · rfl
    · exact s.writeFrom_pending _ _ _
  | readTable =>
    simp only [Command.run, cmdReadTable]
    repeat' split <;> try rfl
  | readNext =>
    simp only [Command.run, cmdReadNext]
    repeat' split <;> try rfl
  | readStatus => simp only [Command.run, cmdReadStatus]; split <;> rfl
  | clearFlags => simp only [Command.run, cmdClearFlags]; split <;> rfl
  | setNoticeMask => simp only [Command.run, cmdSetNoticeMask]; split <;> rfl
  | traceArm =>
    simp only [Command.run, cmdTraceArm]
    repeat' split <;> try rfl
  | traceRead =>
    simp only [Command.run, cmdTraceRead]
    repeat' split <;> try rfl

theorem runCommands_pending (turns position : Nat) (bytes : List Byte) (r : ListRun) :
    (runCommands turns position bytes r).state.pending = r.state.pending := by
  induction turns generalizing position bytes r with
  | zero => rfl
  | succ turns ih =>
    unfold runCommands
    split
    · rfl
    · rfl
    · rename_i code len rest
      split
      · rfl
      · split
        · rfl
        · rw [ih]
          unfold ListRun.command
          split
          · rfl
          · exact Command.run_pending _ _ _ _

theorem State.control_pending (s : State) (seq : Byte) (payload : List Byte) : (s.control seq payload).pending = s.pending := by
  unfold State.control
  split
  · rfl
  · rw [State.respond_pending, runCommands_pending]

theorem State.routeA_pending (s : State) (bytes : List Byte) (h : Header) (payload : List Byte) :
    (s.routeA bytes h payload).pending = s.pending := by
  unfold State.routeA
  split
  · unfold State.routeManagement
    split
    · exact s.control_pending _ _
    · rfl
  · split
    · unfold State.routeForeign
      split
      · rfl
      · exact s.offerAToB_pending bytes
    · unfold State.routeClaimed State.deliverUnit
      repeat' split <;> try rfl

theorem State.arrive_pending (s : State) (port : Port) (bytes : List Byte) : (s.arrive port bytes).pending = s.pending := by
  unfold State.arrive
  split
  · exact s.endReception_pending port
  · unfold State.takeUnit
    split
    · cases port <;> rfl
    · cases port with
      | a => exact s.routeA_pending _ _ _
      | b => exact s.offerBToA_pending bytes

theorem State.complete_pending (s : State) (port : Port) : (s.complete port).pending = s.pending := by
  cases port with
  | a =>
    unfold State.complete
    dsimp only
    split
    · rw [State.completeA_eq]
      split
      · rfl
      · rw [State.selectA_pending]; rfl
    · rfl
  | b =>
    unfold State.complete
    dsimp only
    split
    · rw [State.completeB, State.selectB_pending]
    · rfl

theorem State.completeDecode_pending (s : State) : s.completeDecode.pending = s.pending := by
  unfold State.completeDecode
  split
  · split
    · rfl
    · split <;> simp
  · rfl

theorem State.completeEncode_pending (s : State) : s.completeEncode.pending = s.pending := by
  unfold State.completeEncode
  split
  · split
    · split <;> simp
    · rfl
  · rfl

theorem State.endVoid_pending (s : State) : s.endVoid.pending = s.pending := by
  unfold State.endVoid
  split
  · split <;> simp
  · rfl

/-- A command that RESET stops goes on where its effect leaves the queue alone. -/
theorem goesOn_unless_reset {s u : State} {o : Host.Outcome State Fault Refusal}
    (eq : o = if s.management.device = .reset then .next s else .next u) (pending : u.pending = s.pending) :
    ∃ t, o = .next t ∧ t.pending = s.pending := by
  rw [eq]
  split
  · exact ⟨s, rfl, rfl⟩
  · exact ⟨u, rfl, pending⟩

/-- Settles O2: each command, with what it leaves of the queue. -/
theorem everyCommandGoesOn : Obligations.EveryCommandGoesOn := by
  intro c s
  have answered (c : Command) (env : Envelope) (args : List Byte) : (s.controlOne c env args).pending = s.pending :=
    s.control_pending _ _
  cases c with
  | powerUp => exact ⟨_, rfl, rfl⟩
  | pinReset => exact ⟨_, rfl, rfl⟩
  | resetEnd pins =>
    show ∃ t, (if s.management.device = .reset then _ else _) = _ ∧ _
    split
    · exact ⟨_, rfl, rfl⟩
    · exact ⟨_, rfl, rfl⟩
  | tick input => exact goesOn_unless_reset (u := s.finishTick.tick input) rfl (by simp)
  | deviceCycleBoundary => exact goesOn_unless_reset (u := s.cycleBoundary) rfl (by simp)
  | contextBoundary n order => exact goesOn_unless_reset (u := s.contextBoundary n order) rfl (by simp)
  | unitArrival port bytes => exact goesOn_unless_reset rfl (s.arrive_pending port bytes)
  | peerHoldAsserted port => exact ⟨_, rfl, by simp⟩
  | peerHoldReleased port =>
    show ∃ t, (if s.management.device = .reset then _ else _) = _ ∧ _
    split
    · exact ⟨_, rfl, by simp⟩
    · exact ⟨_, rfl, by simp⟩
  | transmissionComplete port => exact goesOn_unless_reset rfl (s.complete_pending port)
  | restartDeadline =>
    show ∃ t, (if s.management.restart.isSome then _ else _) = _ ∧ _
    split
    · exact ⟨_, rfl, rfl⟩
    · exact ⟨_, rfl, rfl⟩
  | decodeCompletion => exact goesOn_unless_reset rfl s.completeDecode_pending
  | encodeCompletion => exact goesOn_unless_reset rfl s.completeEncode_pending
  | voidRunEnd => exact goesOn_unless_reset rfl s.endVoid_pending
  | _ env args => exact goesOn_unless_reset rfl (answered _ env args)

end Sys2Proof.Machine

/-! The laws right after reset, the beginnings of a reset and its end (8.5, 8.6). -/

namespace Sys2Proof.Machine

/-! ## The laws at reset -/

theorem State.reset_channel (n : Nat) : State.reset.channel n = Channel.atReset :=
  State.afterReset_channel _ _ _ _ n

/-- A law that every context after reset keeps holds of each context of the part after reset. -/
theorem State.reset_all {p : Channel → Prop} (h : p Channel.atReset) (n : Nat) : p (State.reset.channel n) := by
  rw [State.reset_channel]; exact h

theorem bindingLaw_reset : BindingLaw State.reset where
  bound := State.reset_all (p := fun c => c.binding.isSome = true ↔ c.state ≠ .free) (by decide)
  phase n b bound := by rw [State.reset_channel] at bound; cases bound
  timeslot n m b d bound := by rw [State.reset_channel] at bound; cases bound
  share p := by
    have unbound : State.reset.countBound (fun b => b.phase == p) = 0 := by
      by_contra some_bound
      obtain ⟨n, b, use, -⟩ := (State.countBound_pos _ _).1 some_bound
      exact use (by rw [State.reset_channel]; rfl)
    omega

theorem modeLaw_reset : ModeLaw State.reset :=
  State.reset_all ⟨by decide, by decide, nofun⟩

theorem queueLaw_reset : QueueLaw State.reset :=
  ⟨by decide, by decide, by decide, by decide, by decide⟩

theorem jobLaw_reset : JobLaw State.reset :=
  ⟨fun _ => Nat.zero_le _, nofun⟩

theorem speechDataLaw_reset : SpeechDataLaw State.reset where
  queued := State.reset_all (p := fun c => ∀ e ∈ c.playout.queue, ∀ f, e.body.frame? = some f → f.WellFormed)
    Playout.start_whole.queued
  lastGood := State.reset_all (p := fun c => ∀ f, c.playout.lastGood = some f → f.WellFormed) Playout.start_whole.lastGood
  jobs j flight := absurd flight List.not_mem_nil
  buffers n use := by rw [State.reset_channel] at use; exact absurd rfl use
  run r w current := by cases current
  trace a samples filled := by cases filled

theorem counterLaw_reset : CounterLaw State.reset where
  device := DeviceCounters.limited_zero
  context := State.reset_all (p := fun c => ∀ k ∈ c.counters.toList, k ≤ 65535) ContextCounters.limited_zero
  playout := State.reset_all (p := fun c => c.playout.Limited) Playout.start_limited
  highway := by decide

/-- Settles O60: each law, from the reset value of what it speaks of. -/
theorem lawsHoldAtReset : Obligations.LawsHoldAtReset :=
  ⟨fun _ => State.reset_all (p := fun c => c.state = .free) rfl, bindingLaw_reset, modeLaw_reset, queueLaw_reset,
    ⟨fun _ => ⟨rfl, rfl⟩, fun _ => rfl, nofun⟩,
    State.reset_all (p := fun c => c.playout.Law) Playout.start_law, TableLaw.afterReset ..,
    jobLaw_reset, speechDataLaw_reset, ⟨State.reset_all (p := fun c => c.codec.InRange) Codec.start_inRange, nofun⟩,
    counterLaw_reset, ⟨by decide, nofun, fun n => by rw [State.reset_channel]; nofun⟩, ⟨.nil, nofun⟩⟩

/-! ## The beginnings of a reset -/

/-- In RESET every command but the resets' own and the hold pins changes nothing. -/
theorem exec_in_reset {s : State} (reset : s.management.device = .reset) (c : Instr) (powerUp : c ≠ .powerUp)
    (pinReset : c ≠ .pinReset) (deadline : c ≠ .restartDeadline) (resetEnd : ∀ pins, c ≠ .resetEnd pins)
    (asserted : ∀ port, c ≠ .peerHoldAsserted port) (released : ∀ port, c ≠ .peerHoldReleased port) :
    exec c s = .next s := by
  cases c with
  | powerUp => exact absurd rfl powerUp
  | pinReset => exact absurd rfl pinReset
  | restartDeadline => exact absurd rfl deadline
  | resetEnd pins => exact absurd rfl (resetEnd pins)
  | peerHoldAsserted port => exact absurd rfl (asserted port)
  | peerHoldReleased port => exact absurd rfl (released port)
  | _ => exact if_pos reset

/-- Settles O3: the three beginnings are one, `State.beginReset`, and RESET stops every other command. -/
theorem resetsAbandonWorkAndStopThePart : Obligations.ResetsAbandonWorkAndStopThePart := by
  refine ⟨⟨fun s c begins => ?_, fun s none => ?_⟩, fun c s reset => exec_in_reset reset c⟩
  · rcases begins with rfl | rfl | ⟨rfl, pending⟩
    · exact ⟨s.beginReset, rfl, rfl, rfl, rfl, rfl, s.beginReset_channel, rfl, rfl, rfl, rfl, rfl⟩
    · exact ⟨_, rfl, rfl, rfl, rfl, rfl, s.beginReset_channel, rfl, rfl, rfl, rfl, rfl⟩
    · exact ⟨s.beginReset, if_pos pending, rfl, rfl, rfl, rfl, s.beginReset_channel, rfl, rfl, rfl, rfl, rfl⟩
  · exact if_neg (by simp [none])

/-! ## The end of a reset -/

/-- Settles O4: the end of a reset is `State.afterReset` of the pins sampled. -/
theorem resetEndGivesResetValues : Obligations.ResetEndGivesResetValues := by
  refine ⟨fun pins s reset => ⟨s.endReset pins, if_pos reset, rfl, ?highways, rfl, rfl, rfl, rfl, rfl, rfl, rfl, ?step,
    ?gain, rfl, ?window, rfl, rfl, ?contexts, rfl, rfl, rfl, rfl, rfl, rfl, rfl, rfl⟩,
    fun s reset holdA holdB waiting => ?end_of_nothing, fun pins s running => if_neg running⟩
  case highways =>
    intro i
    simp only [State.endReset, State.afterReset, Fin.getElem_fin, Vector.getElem_replicate]
    exact ⟨rfl, rfl, rfl, rfl⟩
  case step =>
    intro i
    simp only [State.endReset, State.afterReset, resetStepTable, Fin.getElem_fin, Vector.getElem_ofFn]
    rfl
  case gain =>
    intro i
    simp only [State.endReset, State.afterReset, resetGainTable, Fin.getElem_fin, Vector.getElem_replicate]
  case window =>
    intro i
    simp only [State.endReset, State.afterReset, Fin.getElem_fin, Vector.getElem_replicate]
    rfl
  case contexts =>
    intro n
    rw [State.endReset, State.afterReset_channel]
    exact ⟨rfl, rfl, rfl, rfl, rfl, rfl, rfl, rfl, rfl, rfl, rfl⟩
  case end_of_nothing =>
    refine (if_pos reset).trans ?_
    rw [State.endReset, holdA, holdB, waiting]
    rfl

end Sys2Proof.Machine

/-! Highways and frame timing (Chapter 2): a tick, the judgments, the lock transitions, and the device cycle boundary. -/

namespace Sys2Proof.Machine

/-! ## The three timing commands while the part runs -/

theorem exec_deviceCycleBoundary {s : State} (running : s.running) :
    exec .deviceCycleBoundary s = .next s.cycleBoundary :=
  if_neg running

theorem exec_contextBoundary {s : State} (running : s.running) (n : Nat) (order : List JobRef) :
    exec (.contextBoundary n order) s = .next (s.contextBoundary n order) :=
  if_neg running

/-- Where nothing is owed, a tick is the judgments, the counter and the transfers alone. -/
theorem exec_tick_settled {s : State} (running : s.running) (settled : s.Settled) (input : TickInput) :
    exec (.tick input) s = .next (s.tick input) := by
  rw [exec_tick running, settled.finishTick_eq]

/-! ## What a tick leaves -/

section Tick
variable (s : State) (input : TickInput)

@[simp] theorem State.tick_frameCounter :
    (s.tick input).highway.frameCounter = nextFrame s.highway.frameCounter := by
  unfold State.tick; split <;> rfl

@[simp] theorem State.tick_cycleDue :
    (s.tick input).highway.cycleDue = (nextFrame s.highway.frameCounter == 0) := by
  unfold State.tick; split <;> rfl

@[simp] theorem State.tick_cycleCounter : (s.tick input).highway.cycleCounter = s.highway.cycleCounter := by
  unfold State.tick; split <;> rfl

@[simp] theorem State.tick_drivesClocks : (s.tick input).highway.drivesClocks = !s.tables.slave := by
  unfold State.tick; split <;> rfl

@[simp] theorem State.tick_tickSource :
    (s.tick input).highway.tickSource = s.nextSource input.highways (s.judgedHighways input.highways) := by
  unfold State.tick; split <;> rfl

theorem State.tick_channel (n : Nat) :
    (s.tick input).channel n =
      (s.channel n).tick (s.judgedHighways input.highways) (nextFrame s.highway.frameCounter) := by
  unfold State.tick
  split
  · exact s.advance_channel input.highways n
  · exact s.advance_channel input.highways n

theorem State.tick_status_follows :
    (s.tick input).status.counters = s.status.counters ∧ (s.tick input).status.mask = s.status.mask ∧
      (s.tick input).status.healthChanged = s.status.healthChanged := by
  unfold State.tick
  split
  · exact ⟨rfl, rfl, rfl⟩
  · simp [State.takeTransitions, State.advance]

end Tick

/-- A context at its phase owes its boundary and drives nothing yet. -/
theorem Channel.tick_at_phase {c : Channel} {b : Binding} (use : c.state ≠ .free) (bound : c.binding = some b)
    {frame : Nat} (phase : b.phase = frame) (highways : Vector Highway 4) :
    c.tick highways frame = { c with boundaryDue := true, driven := none } := by
  simp [Channel.tick, use, bound, phase]

theorem Channel.tick_off_phase {c : Channel} {b : Binding} (bound : c.binding = some b) {frame : Nat}
    (phase : b.phase ≠ frame) (highways : Vector Highway 4) : c.tick highways frame = c.transfer highways frame := by
  simp [Channel.tick, bound, phase]

theorem Channel.tick_free {c : Channel} (free : c.state = .free) (highways : Vector Highway 4) (frame : Nat) :
    c.tick highways frame = { c with driven := none } := by
  simp [Channel.tick, free, Channel.transfer_free]

/-- The code collected is the highway's at the timeslot, bit for bit, or the idle code while UNLOCKED. -/
theorem collectedCode_eq {h : Highway} {b : Binding} {sent : Byte}
    (bits : ∀ k, k < 8 → sent.getMsbD k = h.received.getMsbD (8 * b.timeslot.val + k)) :
    collectedCode h b = if h.locked then sent else b.law.idle := by
  unfold collectedCode
  rw [timeslotCode_eq h.received b.timeslot sent bits]

/-! ## Work owed before a tick -/

theorem State.follow_contextBoundaries (contexts : List Nat) {s : State} (running : s.running) :
    s.follow (contexts.map fun n => .contextBoundary n []) = contexts.foldl (fun s n => s.contextBoundary n []) s := by
  induction contexts generalizing s with
  | nil => rfl
  | cons n ns ih =>
    simp only [List.map_cons, State.follow, exec_contextBoundary running, List.foldl_cons]
    exact ih (by simpa [State.running] using running)

/-- The commands of a tick's boundaries, the flag events last, do what `finishTick` does. -/
theorem State.follow_owed {s : State} (running : s.running) :
    (s.follow (.deviceCycleBoundary :: (List.range 192).map fun n => .contextBoundary n [])).follow
        [.deviceCycleBoundary] = s.finishTick := by
  have runs : s.cycleBoundary.running := by simpa [State.running] using running
  have taken : s.follow (.deviceCycleBoundary :: (List.range 192).map fun n => .contextBoundary n []) =
      s.cycleBoundary.boundaries := by
    simp only [State.follow, exec_deviceCycleBoundary running]
    exact State.follow_contextBoundaries _ runs
  have runs' : s.cycleBoundary.boundaries.running := by simpa [State.running] using running
  rw [taken]
  simp only [State.follow, exec_deviceCycleBoundary runs']
  rfl

/-- Settles O5: a tick by context, the work owed before it, and the transmit frame by timeslot. -/
theorem tickCountsAndTransfers : Obligations.TickCountsAndTransfers := by
  refine ⟨fun input s running settled => ⟨s.tick input, exec_tick_settled running settled input, ?counts⟩,
    fun input s u v running hu hv => ?owed, fun s highway slot k i law hk hi => ?frame⟩
  case counts =>
    obtain ⟨counters, mask, healthChanged⟩ := s.tick_status_follows input
    refine ⟨by simp [nextFrame], by simp, by simp, by simp [Tables.slave, bne], fun i => ?_, fun n free => ?_,
      fun n b use bound phase => ?_, fun n b place sent code use bound phase hplace bits hcode => ?_, by simp, by simp,
      by simp, by simp, by simp, by simp, by simp, counters, mask, healthChanged⟩
    · rw [State.tick_highways, State.judgedHighways_get]; rfl
    · rw [State.tick_channel, Channel.tick_free free]
    · rw [State.tick_channel]
      rw [State.tick_frameCounter] at phase
      exact Channel.tick_at_phase use bound phase _
    · rw [State.tick_frameCounter] at phase hplace
      have collected : collectedCode (s.judgedHighways input.highways)[b.highway] b = code := by
        rw [hcode, State.tick_highways]
        refine collectedCode_eq fun k hk => ?_
        rw [State.judgedHighways_get]
        exact bits k hk
      have channel : (s.tick input).channel n = _ :=
        (s.tick_channel input n).trans ((Channel.tick_off_phase bound phase _).trans (Channel.transfer_bound use bound _ _))
      have at_place : position (nextFrame s.highway.frameCounter) b.phase = place := hplace.symm
      rw [at_place, collected] at channel
      refine ⟨?_, fun drivenCode playing => ?_, ?_⟩
      · rw [channel]; rfl
      · rw [channel]; simp [List.getD_eq_getElem?_getD, playing]
      · rw [channel]
  case owed =>
    have ended : v = s.finishTick := (hu ▸ hv).trans (State.follow_owed running)
    have runs : s.finishTick.running := by simpa [State.running] using running
    rw [ended]
    refine ⟨s.finishTick_settled, runs, ?_⟩
    rw [exec_tick running, exec_tick_settled runs s.finishTick_settled]
  case frame =>
    refine ⟨s.transmitFrame_get highway i, fun n b bound onHighway inSlot => ?_, fun unbound => ?_⟩
    · subst onHighway inSlot
      rw [s.transmitBit_eq b.highway b.timeslot k i hk hi, s.drivenIn_bound law n b bound]
    · rw [s.transmitBit_eq highway slot k i hk hi, s.drivenIn_unbound highway slot unbound]
      rfl

/-! ## Judgments (R26, R30) -/

theorem pulseAt_iff (start : Nat) (pulses : List Nat) : pulseAt start pulses = true ↔ pulses = [start] := by
  simp [pulseAt]

theorem inRhythm_iff (record : Option Nat) (pulses : List Nat) :
    inRhythm record pulses = true ↔ ∃ r p, record = some r ∧ pulses = [p] ∧ r + p = 512 := by
  unfold inRhythm
  split
  · simp
  · rename_i other
    exact ⟨nofun, fun ⟨r, p, record, pulses, _⟩ => (other r p record pulses).elim⟩

theorem Tables.slave_iff (t : Tables) : t.slave = true ↔ t.setting 0 = 1 := by
  simp [Tables.slave]

theorem State.retimed_iff (s : State) (inputs : Vector HighwayInput 4) :
    s.retimed inputs = true ↔
      s.tables.setting 0 = 1 ∧ s.referenceHighway.locked = true ∧ s.highway.tickSource = .internal ∧
        inputs[s.tables.reference].pulses = [inputs[s.tables.reference].span] ∧
        ∃ r, s.referenceHighway.lastPulse = some r ∧ r + inputs[s.tables.reference].span = 512 := by
  unfold State.retimed State.acquiring
  simp only [Bool.and_eq_true, Tables.slave_iff, beq_iff_eq, pulseAt_iff, inRhythm_iff]
  constructor
  · rintro ⟨⟨⟨⟨slave, locked⟩, source⟩, pulse⟩, r, p, record, pulses, sum⟩
    have at_end : inputs[s.tables.reference].span = p := List.singleton_injective (pulse.symm.trans pulses)
    exact ⟨slave, locked, source, pulse, r, record, at_end ▸ sum⟩
  · rintro ⟨slave, locked, source, pulse, r, record, sum⟩
    exact ⟨⟨⟨⟨slave, locked⟩, source⟩, pulse⟩, r, _, record, pulse, sum⟩

section Judge
variable {s : State} {i : Fin 4} {inputs : Vector HighwayInput 4}

theorem State.judge_master (master : s.tables.setting 0 ≠ 1) : s.judge i inputs = true := by
  have : s.tables.slave = false := by simpa [← Tables.slave_iff] using master
  simp [State.judge, this]

theorem State.judge_reference_unlocked (slave : s.tables.setting 0 = 1) (reference : i = s.tables.reference)
    (unlocked : s.highway.highways[i].locked = false) :
    s.judge i inputs = inRhythm s.highway.highways[i].lastPulse inputs[i].pulses := by
  unfold State.judge
  rw [if_neg (by simp [(Tables.slave_iff _).2 slave]), if_pos reference, if_pos (by rw [unlocked]; rfl)]

theorem State.judge_reference_locked (slave : s.tables.setting 0 = 1) (reference : i = s.tables.reference)
    (locked : s.highway.highways[i].locked = true) :
    s.judge i inputs = (pulseAt 512 inputs[i].pulses || s.retimed inputs) := by
  unfold State.judge
  rw [if_neg (by simp [(Tables.slave_iff _).2 slave]), if_pos reference, if_neg (by rw [locked]; decide)]

theorem State.judge_other (slave : s.tables.setting 0 = 1) (other : i ≠ s.tables.reference) :
    s.judge i inputs = pulseAt (if s.retimed inputs then inputs[i].span else 512) inputs[i].pulses := by
  simp [State.judge, (Tables.slave_iff _).2 slave, other]

end Judge

/-- Settles O7: the four rows of the table, and the record a tick leaves. -/
theorem judgmentTable : Obligations.JudgmentTable := by
  refine ⟨fun s i inputs span retimed hspan hretimed => ?table, fun input s i running => ?record⟩
  case table =>
    have moved : s.retimed inputs = true ↔ retimed := by rw [hretimed, hspan]; exact s.retimed_iff inputs
    refine ⟨fun master => State.judge_master master, fun slave reference unlocked => ?_,
      fun slave reference locked => ?_, fun slave other nominal => ?_, fun slave other was => ?_⟩
    · rw [State.judge_reference_unlocked slave reference unlocked, inRhythm_iff]
    · rw [State.judge_reference_locked slave reference locked, Bool.or_eq_true, pulseAt_iff, moved]
    · rw [State.judge_other slave other, if_neg (moved.not.2 nominal), pulseAt_iff]
    · rw [State.judge_other slave other, if_pos (moved.2 was), pulseAt_iff]
  case record =>
    refine ⟨_, exec_tick running input, ?_⟩
    rw [State.finishTick_tick_highway]
    rfl

end Sys2Proof.Machine

/-! Lock transitions and the device cycle boundary (2.2, 2.3, 10.1, 10.2). -/

namespace Sys2Proof.Machine

/-! ## Lock thresholds (R28) -/

theorem lockFrames_of_table {code n : Nat} (h : [1, 2, 4, 8, 16, 32, 64, 128][code]? = some n) :
    lockFrames code = n ∧ 1 ≤ n := by
  obtain ⟨inTable, -⟩ := List.getElem?_eq_some_iff.1 h
  simp only [List.length_cons, List.length_nil] at inTable
  interval_cases code <;> simp_all [lockFrames]
  all_goals omega

theorem Highway.judged_locks {h : Highway} (unlocked : h.locked = false) {good : Bool} {nIn nOut : Nat} (least : 1 ≤ nIn)
    (input : HighwayInput) :
    (h.judged good nIn nOut input).locked = true ↔ nIn ≤ (h.judged good nIn nOut input).goodCount := by
  cases good with
  | true => simp [Highway.judged, unlocked]
  | false => simp [Highway.judged, unlocked]; omega

theorem Highway.judged_unlocks {h : Highway} (locked : h.locked = true) {good : Bool} {nIn nOut : Nat} (least : 1 ≤ nOut)
    (input : HighwayInput) :
    (h.judged good nIn nOut input).locked = false ↔ nOut ≤ (h.judged good nIn nOut input).badCount := by
  cases good with
  | true => simp [Highway.judged, locked]; omega
  | false => simp [Highway.judged, locked]

/-! ## Transitions (R28, R31) -/

theorem anyLost_iff (before after : Vector Highway 4) :
    anyLost before after = true ↔ ∃ i : Fin 4, before[i].locked = true ∧ after[i].locked = false := by
  simp [anyLost]

theorem anyGained_iff (before after : Vector Highway 4) :
    anyGained before after = true ↔ ∃ i : Fin 4, before[i].locked = false ∧ after[i].locked = true := by
  simp [anyGained]

theorem State.tick_late {s : State} {input : TickInput} (late : input.late = true) :
    s.tick input = s.advance input.highways := by
  simp [State.tick, late]

theorem State.tick_on_time {s : State} {input : TickInput} (onTime : input.late = false) :
    s.tick input = (s.advance input.highways).takeTransitions := by
  simp [State.tick, onTime]

theorem State.tick_referenceHighway (s : State) (input : TickInput) :
    (s.tick input).referenceHighway = (s.judgedHighways input.highways)[s.tables.reference] := by
  simp [State.referenceHighway, State.tick_highways]

/-- The flags after the flag events of a tick: HWY-LOSS is bit 0, HWY-GAIN bit 1, HOLDOVER bit 2. -/
theorem State.takeTransitions_flag (s : State) (k : Nat) :
    s.takeTransitions.status.flags.getLsbD k =
      (s.status.flags.getLsbD k || (s.highway.transitions.gained && k == 1) || (s.highway.transitions.lost && k == 0) ||
        (s.highway.transitions.holdover && k == 2)) := by
  simp only [State.takeTransitions, Status.raiseIf_flag, Flag.bit]

theorem State.nextSource_eq (s : State) (inputs : Vector HighwayInput 4) (after : Vector Highway 4) :
    s.nextSource inputs after =
      if s.tables.setting 0 = 1 ∧ after[s.tables.reference].locked = true then
        if s.referenceHighway.locked = true ∧ s.judge s.tables.reference inputs = true then .referencePulse
        else s.highway.tickSource
      else .internal := by
  simp only [State.nextSource, State.referenceHighway, Bool.and_eq_true, Tables.slave_iff]
  congr

/-- Settles O8: thresholds by the judged counts, flags by the transitions of the four highways. -/
theorem lockTransitionsAndFlags : Obligations.LockTransitionsAndFlags := by
  intro input s nIn nOut running settled hIn hOut
  obtain ⟨codeIn, leastIn⟩ := lockFrames_of_table hIn
  obtain ⟨codeOut, leastOut⟩ := lockFrames_of_table hOut
  refine ⟨s.tick input, exec_tick_settled running settled input, fun i => ?thresholds,
    fun lost gained holdover hlost hgained hholdover => ?flags, ?source⟩
  case thresholds =>
    rw [State.tick_highways, State.judgedHighways_get, codeIn, codeOut]
    exact ⟨fun unlocked => Highway.judged_locks unlocked leastIn _, fun locked => Highway.judged_unlocks locked leastOut _⟩
  case flags =>
    rw [State.tick_highways] at hlost hgained
    rw [State.tick_referenceHighway] at hholdover
    have lostEvent : (s.advance input.highways).highway.transitions.lost = true ↔ lost :=
      (anyLost_iff _ _).trans hlost.symm
    have gainedEvent : (s.advance input.highways).highway.transitions.gained = true ↔ gained :=
      (anyGained_iff _ _).trans hgained.symm
    have holdoverEvent : (s.advance input.highways).highway.transitions.holdover = true ↔ holdover := by
      rw [hholdover]
      simp [State.advance, State.transitionsTo, Tables.slave_iff, State.referenceHighway, and_assoc]
    have status : (s.advance input.highways).status = s.status := rfl
    refine ⟨fun onTime => ?_, fun late => ?_⟩
    · rw [State.tick_on_time onTime]
      refine ⟨?_, ?_, ?_, fun k hk => ?_, status ▸ State.takeTransitions_noticeFollows _, rfl⟩
      · rw [State.takeTransitions_flag, status, ← lostEvent]; simp
      · rw [State.takeTransitions_flag, status, ← gainedEvent]; simp
      · rw [State.takeTransitions_flag, status, ← holdoverEvent]; simp
      · have apart : (k == 0) = false ∧ (k == 1) = false ∧ (k == 2) = false := by
          simp only [beq_eq_false_iff_ne]; omega
        rw [State.takeTransitions_flag, status]
        simp [apart]
    · rw [State.tick_late late]
      exact ⟨status, lostEvent, gainedEvent, holdoverEvent⟩
  case source =>
    rw [State.tick_tickSource, State.nextSource_eq, State.tick_referenceHighway]

/-! ## The device cycle boundary -/

/-- The state with the device cycle boundary counted (R32). -/
def State.cycleAdvanced (s : State) : State :=
  { s with highway := { s.highway with cycleDue := false, cycleCounter := s.highway.cycleCounter + 1 } }

theorem State.cycleBoundary_of_due {s : State} (due : s.highway.cycleDue = true) :
    s.cycleBoundary = s.cycleAdvanced.composeNotice := by
  simp [State.cycleBoundary, due, State.cycleAdvanced]

theorem State.composeNotice_of_not_wanted {s : State} (quiet : s.status.noticeWanted = false) : s.composeNotice = s := by
  simp [State.composeNotice, quiet]

theorem State.composeNotice_of_wanted {s : State} (wanted : s.status.noticeWanted = true) :
    s.composeNotice =
      ({ s with status := { s.status with noticeWanted := false, healthChanged := [] } } : State).offerNotice
        s.noticeUnit := by
  simp [State.composeNotice, wanted]

theorem Health.toByte_eq (h : Health) : h.toByte = if h = .present then 1 else 0 := by
  cases h <;> rfl

/-- Settles O9: the boundary counts, composes a wanted NOTICE from the notice's layout, and else takes what a late tick
left. -/
theorem deviceCycleBoundaryComposesNotice : Obligations.DeviceCycleBoundaryComposesNotice := by
  intro s running
  have boundary := exec_deviceCycleBoundary running
  refine ⟨fun notDue => ?_, fun notDue none => ?_, fun due quiet => ?_,
    fun due wanted entries payload front hentries hpayload hfront => ?_⟩
  · rw [boundary, State.cycleBoundary_of_not_due notDue]; rfl
  · rw [boundary, State.cycleBoundary_of_not_due notDue, State.takeTransitions_of_none none]
  · rw [boundary, State.cycleBoundary_of_due due, State.composeNotice_of_not_wanted (s := s.cycleAdvanced) quiet]; rfl
  · have composed : s.cycleAdvanced.noticePayload = payload := by
      rw [hpayload, hentries]
      simp only [State.noticePayload, Health.toByte_eq]
      rfl
    have unit : s.cycleAdvanced.noticeUnit = front ++ [crc8 front] ++ payload := by
      rw [State.noticeUnit_eq _ front (by rw [composed]; exact hfront), composed]
    rw [boundary, State.cycleBoundary_of_due due, State.composeNotice_of_wanted (s := s.cycleAdvanced) wanted, unit]
    rfl

end Sys2Proof.Machine

/-! The boundary of an OPEN context (1.7, 2.5, 4.3, 4.4): settings, buffers, the playout decision. -/

namespace Sys2Proof.Machine

/-! ## What the issues leave -/

/-- Issues change of a context its engine-late counter alone. -/
theorem State.issueJobs_channel_eq (jobs : List Job) (s : State) (m : Nat) :
    (s.issueJobs jobs).channel m =
      { s.channel m with
        counters :=
          { (s.channel m).counters with engineLate := ((s.issueJobs jobs).channel m).counters.engineLate } } := by
  induction jobs generalizing s with
  | nil => rfl
  | cons j jobs ih =>
    have here : ∃ late, (s.issueJob j).channel m =
        { s.channel m with counters := { (s.channel m).counters with engineLate := late } } := by
      obtain ⟨k, l, eq⟩ := s.issueJob_channel_eq j m
      rw [eq]
      split
      · rw [Channel.lateBy_eq, Channel.lateBy_eq]; exact ⟨_, rfl⟩
      · exact ⟨_, rfl⟩
    obtain ⟨late, here⟩ := here
    have rest := ih (s.issueJob j)
    rw [here] at rest
    exact rest

theorem State.issueJobs_channel_ne {jobs : List Job} {m : Nat} (others : ∀ j ∈ jobs, j.context ≠ m) (s : State) :
    (s.issueJobs jobs).channel m = s.channel m := by
  induction jobs generalizing s with
  | nil => rfl
  | cons j jobs ih =>
    obtain ⟨first, rest⟩ := List.forall_mem_cons.1 others
    exact (ih rest (s.issueJob j)).trans (s.issueJob_channel_ne j m first.symm)

/-- Issues set no flag but ENGINE-LATE, and nothing else of the status but notice-wanted with it. -/
theorem State.issueJobs_status (jobs : List Job) (s : State) :
    (∀ k, k ≠ 5 → (s.issueJobs jobs).status.flags.getLsbD k = s.status.flags.getLsbD k) ∧
      s.status.NoticeFollows (s.issueJobs jobs).status ∧ (s.issueJobs jobs).status.counters = s.status.counters ∧
      (s.issueJobs jobs).status.mask = s.status.mask ∧
      (s.issueJobs jobs).status.healthChanged = s.status.healthChanged := by
  induction jobs generalizing s with
  | nil => exact ⟨fun _ _ => rfl, .refl _, rfl, rfl, rfl⟩
  | cons j jobs ih =>
    obtain ⟨flags, notice, counters, mask, healthChanged⟩ := ih (s.issueJob j)
    obtain ⟨mask', counters', healthChanged'⟩ := s.issueJob_status j
    refine ⟨fun k hk => (flags k hk).trans ?_, (s.issueJob_noticeFollows j).trans notice, counters.trans counters',
      mask.trans mask', healthChanged.trans healthChanged'⟩
    rw [State.issueJob_flag]
    simp [hk]

/-! ## A boundary owed to an OPEN context -/

/-- The part runs, and the present tick owes the OPEN context `n`, bound by `b`, its boundary. -/
structure State.OwesOpen (s : State) (n : Nat) (b : Binding) : Prop where
  running : s.running
  due : (s.channel n).boundaryDue = true
  state : (s.channel n).state = .opened
  bound : (s.channel n).binding = some b

section Owes
variable {s : State} {n : Nat} {b : Binding} (owes : s.OwesOpen n b)
include owes

theorem State.OwesOpen.use : (s.channel n).state ≠ .free := by
  rw [owes.state]; decide

theorem State.OwesOpen.lt : n < 192 :=
  State.lt_of_not_free owes.use

/-- The command is the boundary's work, then the issues of its jobs. -/
theorem State.OwesOpen.exec :
    exec (.contextBoundary n []) s = .next ((s.openBoundary n b).issueJobs (s.boundaryJobs n)) := by
  rw [exec_contextBoundary owes.running, State.contextBoundary_nil, State.boundary_open owes.due owes.state owes.bound]

/-- The buffers after the boundary: the exchanged ones, the code of the position collected. -/
theorem State.OwesOpen.buffers :
    ((s.openBoundary n b).channel n).buffers =
      ((s.channel n).boundaryWork b s.stagingHold).buffers.collect (position s.highway.frameCounter b.phase)
        (collectedCode s.highway.highways[b.highway] b) := by
  rw [State.openBoundary_channel_self s n b owes.lt, State.decidedBoundary_channel_self s n b owes.lt,
    Channel.transfer_bound (b := b) (by simpa using owes.use) (by simpa using owes.bound)]
  rfl

/-- The code driven after the boundary: that of the position in the buffer now playing. -/
theorem State.OwesOpen.driven :
    ((s.openBoundary n b).channel n).driven =
      some (((s.channel n).boundaryWork b s.stagingHold).buffers.playing.getD (position s.highway.frameCounter b.phase)
        b.law.idle) := by
  rw [State.openBoundary_channel_self s n b owes.lt, State.decidedBoundary_channel_self s n b owes.lt,
    Channel.transfer_bound (b := b) (by simpa using owes.use) (by simpa using owes.bound)]

end Owes

/-! ## Settings (R17 to R21) -/

/-- The settings application written out. -/
theorem Applied.settle_move (a : Applied) (p : PendingRecord) :
    (a.move p).settle =
      { allowed := p.allowed.getD a.allowed,
        target := (p.allowed.getD a.allowed).resolve (p.target.getD a.target).width,
        mode :=
          (p.allowed.getD a.allowed).stepToward ((p.allowed.getD a.allowed).resolve a.mode.width)
            ((p.allowed.getD a.allowed).resolve (p.target.getD a.target).width),
        preference := p.preference.getD a.preference, uplinkGain := p.uplinkGain.getD a.uplinkGain,
        downlinkGain := p.downlinkGain.getD a.downlinkGain, followRequests := p.followRequests.getD a.followRequests,
        suppression := p.suppression.getD a.suppression, threshold := p.threshold.getD a.threshold } :=
  rfl

/-- Settles O10: the boundary's work on the settings, which the issues leave alone. -/
theorem boundaryAppliesSettings : Obligations.BoundaryAppliesSettings := by
  rintro s n b c running rfl due state bound
  have owes : s.OwesOpen n b := ⟨running, due, state, bound⟩
  have channel := State.issueJobs_channel_eq (s.boundaryJobs n) (s.openBoundary n b) n
  generalize ht : (s.openBoundary n b).issueJobs (s.boundaryJobs n) = t at channel
  have applied : (t.channel n).applied = _ :=
    (congrArg Channel.applied channel).trans ((State.openBoundary_applied owes.lt b).trans (Channel.boundaryWork_applied _ _ _))
  have waiting : (t.channel n).waiting = _ :=
    (congrArg Channel.waiting channel).trans ((State.openBoundary_waiting owes.lt b).trans (Channel.boundaryWork_waiting _ _ _))
  have codec : (t.channel n).codec = _ :=
    (congrArg Channel.codec channel).trans ((State.openBoundary_codec owes.lt b).trans (Channel.boundaryWork_codec _ _ _))
  refine ⟨t, ht ▸ owes.exec, fun hold => ?_, fun clear => ⟨?_, ?_⟩, ?_, ?_, ?_, ?_, ?_, ?_, fun m hm => ?_, ?_⟩
  · rw [applied, waiting, hold]; exact ⟨rfl, rfl⟩
  · rw [waiting, clear]; rfl
  · rintro allowed target mode rfl rfl rfl
    rw [applied, clear]
    exact Applied.settle_move _ _
  · rw [codec, applied]
    cases hold : s.stagingHold with
    | true => simp
    | false => rfl
  · rw [channel]; exact (State.openBoundary_state owes.lt b).trans state
  · rw [channel]; exact State.openBoundary_generation owes.lt b
  · rw [channel]; exact (State.openBoundary_binding owes.lt b).trans bound
  · rw [channel]; exact State.openBoundary_firstBoundary owes.lt b
  · rw [channel]
    show ((s.openBoundary n b).channel n).boundaryDue = false
    rw [State.openBoundary_boundaryDue, if_pos rfl]
  · rw [← ht, State.issueJobs_channel_ne fun j hj => (State.boundaryJobs_issuable hj).1 ▸ hm.symm, State.openBoundary_channel_ne _ _ _ _ hm]
  · rw [← ht]; simp

/-! ## Buffers (R38 to R40) -/

theorem position_self {frame : Nat} : position frame frame = 0 := by
  simp [position]

theorem Buffers.exchange_eq (x : Buffers) (law : Law) :
    x.exchange law =
      { x with
        playing := if x.filled then x.next else law.idleBuffer, next := if x.filled then x.playing else x.next,
        filled := false } := by
  obtain ⟨playing, next, filled, firstBank, secondBank, bank⟩ := x
  cases filled <;> rfl

theorem Buffers.collect_eq (x : Buffers) (place : Nat) (code : Byte) :
    x.collect place code =
      { x with
        firstBank := if x.bank = .first then x.firstBank.set place code else x.firstBank,
        secondBank := if x.bank = .second then x.secondBank.set place code else x.secondBank } := by
  unfold Buffers.collect
  cases x.bank <;> simp

/-- The buffers after the exchange of a boundary, the banks' roles changed past the first boundary. -/
theorem Channel.boundaryWork_buffers_eq (c : Channel) (b : Binding) (hold : Bool) :
    (c.boundaryWork b hold).buffers =
      { c.buffers.exchange b.law with bank := if c.firstBoundary then c.buffers.bank else c.buffers.bank.other } := by
  rw [Channel.boundaryWork_buffers, Buffers.exchange_eq]
  split <;> rfl

/-- Settles O11: exchange and change of roles, then the transfer of position 0. -/
theorem boundaryExchangesBuffers : Obligations.BoundaryExchangesBuffers := by
  rintro s n b c bank sent code running rfl due state bound phase inCycle hbank bits hcode
  have owes : s.OwesOpen n b := ⟨running, due, state, bound⟩
  have channel := State.issueJobs_channel_eq (s.boundaryJobs n) (s.openBoundary n b) n
  have buffers : (((s.openBoundary n b).issueJobs (s.boundaryJobs n)).channel n).buffers = _ :=
    (congrArg Channel.buffers channel).trans owes.buffers
  have driven : (((s.openBoundary n b).issueJobs (s.boundaryJobs n)).channel n).driven = _ :=
    (congrArg Channel.driven channel).trans owes.driven
  rw [← phase, position_self] at buffers driven
  rw [collectedCode_eq bits, ← hcode, Channel.boundaryWork_buffers_eq, ← hbank, Buffers.exchange_eq, Buffers.collect_eq] at buffers
  refine ⟨_, owes.exec, buffers, fun drivenCode playing => ?_⟩
  rw [buffers] at playing
  rw [driven, Channel.boundaryWork_buffers_eq, Buffers.exchange_eq]
  simp only [List.getD_eq_getElem?_getD]
  rw [playing]
  rfl

/-! ## The decision and the health record (R76, R87 to R89, R91) -/

theorem ContextCounters.decided_eq (c : ContextCounters) (counted : Counted) :
    c.decided counted =
      { c with
        good := if counted = .good then min 65535 (c.good + 1) else c.good,
        damaged := if counted = .damaged then min 65535 (c.damaged + 1) else c.damaged,
        lost := if counted = .lost then min 65535 (c.lost + 1) else c.lost } := by
  cases counted <;> simp [ContextCounters.decided, countUp]

theorem healthFrames_of_table {code n : Nat} (h : [1, 2, 3, 5, 10, 20, 50, 100][code]? = some n) : healthFrames code = n := by
  simp [healthFrames, List.getD_eq_getElem?_getD, h]

/-- The health record frame by frame (R87 to R89). -/
theorem HealthRecord.record_table (h : HealthRecord) (nGood nLost : Nat) :
    h.record nGood nLost .nothing = h ∧
      (h.record nGood nLost .good).goodRun = min 255 (h.goodRun + 1) ∧ (h.record nGood nLost .good).lostRun = 0 ∧
      ((h.record nGood nLost .good).health = .present ↔ h.health = .present ∨ nGood ≤ min 255 (h.goodRun + 1)) ∧
      (h.record nGood nLost .lost).lostRun = min 255 (h.lostRun + 1) ∧ (h.record nGood nLost .lost).goodRun = 0 ∧
      ((h.record nGood nLost .lost).health = .absent ↔ h.health = .absent ∨ nLost ≤ min 255 (h.lostRun + 1)) := by
  refine ⟨rfl, rfl, rfl, ?_, rfl, rfl, ?_⟩
  · cases health : h.health <;> simp [HealthRecord.record, health, runUp]
  · cases health : h.health <;> simp [HealthRecord.record, health, runUp]

/-- Settles O13: the decision's record, counter and health transition, which the issues leave alone. -/
theorem boundaryDecidesAndRecordsHealth : Obligations.BoundaryDecidesAndRecordsHealth := by
  refine ⟨?_, HealthRecord.record_table⟩
  rintro s n b c d nGood nLost running rfl due state bound rfl hGood hLost
  have owes : s.OwesOpen n b := ⟨running, due, state, bound⟩
  have channel := State.issueJobs_channel_eq (s.boundaryJobs n) (s.openBoundary n b) n
  obtain ⟨flags, notice, counters, mask, healthChanged⟩ := State.issueJobs_status (s.boundaryJobs n) (s.openBoundary n b)
  have playout : (((s.openBoundary n b).issueJobs (s.boundaryJobs n)).channel n).playout = _ :=
    (congrArg Channel.playout channel).trans (State.openBoundary_playout owes.lt b)
  have counted : (((s.openBoundary n b).issueJobs (s.boundaryJobs n)).channel n).counters = _ :=
    (congrArg Channel.counters channel)
  have status := State.decidedBoundary_status s n b owes.lt
  rw [← State.openBoundary_status] at status
  rw [healthFrames_of_table hGood, healthFrames_of_table hLost] at playout status
  generalize ht : (s.openBoundary n b).issueJobs (s.boundaryJobs n) = t at *
  have health : (t.channel n).playout.health.health = _ := congrArg (fun p : Playout => p.health.health) playout
  rw [← health] at status
  refine ⟨t, ht ▸ owes.exec, playout, ?_, ?_, ?_, fun m => ?_, fun k h3 h4 h5 => ?_, ?_, ?_, ?_⟩
  · rw [counted, State.openBoundary_counters owes.lt b, ContextCounters.decided_eq]
  · rw [flags 3 (by decide), status, Status.healthMoved_flag]; simp
  · rw [flags 4 (by decide), status, Status.healthMoved_flag]; simp
  · rw [healthChanged, status]; exact Status.mem_healthMoved _ _ _ _ _
  · rw [flags k h5, status, Status.healthMoved_flag]; simp [beq_false_of_ne h3, beq_false_of_ne h4]
  · exact (status ▸ Status.NoticeFollows.healthMoved _ _ _ _ : s.status.NoticeFollows (s.openBoundary n b).status).trans notice
  · rw [counters, status]; simp
  · rw [mask, status]; simp

end Sys2Proof.Machine

/-! Issues (5.3, 5.4): the jobs of a boundary, their order, what they void and count, and the close that completes (1.6). -/

namespace Sys2Proof.Machine

/-! ## The jobs of a boundary (R93, R132) -/

/-- The DECODE job of a boundary, `a` being the settings it leaves. -/
def Channel.decodeIssue (c : Channel) (n : Nat) (b : Binding) (a : Applied) (work : Work) : Job :=
  { context := n, generation := c.generation, work := work, law := b.law, gain := a.uplinkGain, void := false }

/-- The ENCODE job of a boundary past the first, of the bank that has been collecting. -/
def Channel.encodeIssue (c : Channel) (n : Nat) (b : Binding) (a : Applied) : Job :=
  { context := n, generation := c.generation,
    work :=
      .encode
        { bank := c.buffers.bank, mode := a.mode, suppression := a.suppression, threshold := a.threshold,
          preference := a.preference, label := b.label },
    law := b.law, gain := a.downlinkGain, void := false }

theorem Bank.other_other (bank : Bank) : bank.other.other = bank := by
  cases bank <;> rfl

section Owes
variable {s : State} {n : Nat} {b : Binding} (owes : s.OwesOpen n b)
include owes

theorem State.OwesOpen.boundary_eq : s.boundary n = s.openBoundary n b :=
  State.boundary_open owes.due owes.state owes.bound

theorem State.OwesOpen.jobs :
    s.boundaryJobs n =
      (s.channel n).decodeIssue n b ((s.channel n).boundaryWork b s.stagingHold).applied
          ((s.channel n).playout.decide b.depth (s.tables.setting 7)).work ::
        if (s.channel n).firstBoundary then []
        else [(s.channel n).encodeIssue n b ((s.channel n).boundaryWork b s.stagingHold).applied] := by
  rw [State.boundaryJobs_open owes.due owes.state owes.bound, State.decidedBoundary_channel_self s n b owes.lt]
  cases first : (s.channel n).firstBoundary with
  | true => simp [Channel.job, Channel.decodeIssue]
  | false =>
    simp [Channel.job, Channel.decodeIssue, Channel.encodeIssue, Channel.encodeWork, Channel.boundaryWork_buffers_eq, first,
      Bank.other_other]

/-- A boundary and the issues of its jobs in an order given. -/
theorem State.OwesOpen.exec_order (order : List JobRef) (same : ∀ r ∈ order, r.context = n) :
    Machine.exec (.contextBoundary n order) s = .next ((s.boundary n).issueJobs (orderJobs order (s.boundaryJobs n))) := by
  have alone : contextsNamed n order = [n] := by
    unfold contextsNamed
    clear owes
    induction order with
    | nil => rfl
    | cons r rs ih =>
      obtain ⟨here, rest⟩ := List.forall_mem_cons.1 same
      rw [List.foldr_cons, ih rest, here]
      simp [insertNumber]
  rw [exec_contextBoundary owes.running, State.contextBoundary, State.takeBoundaries, alone]
  simp

end Owes

/-! ## Issues at a busy engine (R94, R95) -/

theorem Job.voidWhere_voidWhere {p q : Job → Bool} (fields : ∀ (j : Job) void, q { j with void := void } = q j) (j : Job) :
    (j.voidWhere p).voidWhere q = j.voidWhere fun x => p x || q x := by
  simp only [Job.voidWhere_eq, fields, Job.mk.injEq, true_and]
  cases p j <;> cases q j <;> simp

theorem Job.matches_voidWhere (p : Job → Bool) (j : Job) (r : JobRef) : (j.voidWhere p).matches r = j.matches r := by
  rw [Job.voidWhere_eq]; rfl

/-- The queue takes one job if it has room. -/
theorem room_for_one (l : Nat) (d : Job) : (if l < 32 then [d] else []) = [d].take (32 - l) := by
  split
  · rw [List.take_of_length_le]; simp; omega
  · rw [show 32 - l = 0 by omega]; rfl

/-- The queue takes of two jobs as many as it has room for. -/
theorem room_for_two (l : Nat) (d e : Job) :
    [d].take (32 - l) ++ [e].take (32 - (l + ([d].take (32 - l)).length)) = [d, e].take (32 - l) := by
  rcases Nat.lt_trichotomy l 31 with h | rfl | h
  · obtain ⟨k, eq⟩ : ∃ k, 32 - l = k + 2 := ⟨30 - l, by omega⟩
    obtain ⟨m, eq'⟩ : ∃ m, 32 - (l + 1) = m + 1 := ⟨30 - l, by omega⟩
    simp [eq, eq']
  · rfl
  · simp [show 32 - l = 0 by omega]

/-- Voiding jobs of another kind or context leaves a count of live jobs. -/
theorem countP_live_voidWhere (jobs : List Job) {p q : Job → Bool} (fields : ∀ (j : Job) void, q { j with void := void } = q j)
    (apart : ∀ j, q j = true → p j = false) :
    (jobs.map (Job.voidWhere p)).countP (fun j => q j && !j.void) = jobs.countP fun j => q j && !j.void := by
  rw [List.countP_map]
  refine List.countP_congr fun j _ => ?_
  simp only [Function.comp_apply, Job.voidWhere_eq, fields]
  cases h : q j with
  | false => simp
  | true => simp [apart j h]

theorem countP_live_or (jobs : List Job) {p q : Job → Bool} (apart : ∀ j, q j = true → p j = false) :
    (jobs.countP fun j => p j && !j.void) + jobs.countP (fun j => q j && !j.void) =
      jobs.countP fun j => (p j || q j) && !j.void := by
  induction jobs with
  | nil => rfl
  | cons j jobs ih =>
    simp only [List.countP_cons]
    rw [← ih]
    cases hq : q j with
    | false => simp; omega
    | true => simp [apart j hq]; omega

/-- Two different kinds of job of one context. -/
theorem Job.matches_apart {d e : JobRef} (apart : d ≠ e) (j : Job) (h : j.matches e = true) : j.matches d = false := by
  by_contra both
  simp only [Job.matches, Bool.and_eq_true, beq_iff_eq, Bool.not_eq_false] at h both
  obtain ⟨context, kind⟩ := d
  obtain ⟨context', kind'⟩ := e
  simp_all

section Busy
variable {u : State} {r : Run} (busy : u.engine.current = some r) (d e : Job)

/-- Jobs an issue voids or refuses, the refusal counted by the room left. -/
theorem State.lateAtIssue_eq :
    u.lateAtIssue d =
      u.engine.inFlight.countP (fun j => j.matches d.ref && !j.void) + (1 - (32 - u.engine.queue.length)) := by
  unfold State.lateAtIssue Engine.liveCount
  congr 1
  split <;> omega

include busy

/-- One issue: the matching jobs void, the queue takes the new job if it has room. -/
theorem State.issue_one_busy :
    (u.issueJob d).engine =
      { queue := u.engine.queue.map (Job.voidWhere fun j => j.matches d.ref) ++ [d].take (32 - u.engine.queue.length),
        current := some { r with job := r.job.voidWhere fun j => j.matches d.ref } } := by
  rw [State.issueJob_engine_busy busy, room_for_one]

/-- Two issues of different kinds: the jobs matching one of them void, the queue takes the new jobs it has room for. -/
theorem State.issue_two_busy (apart : d.ref ≠ e.ref) :
    ((u.issueJob d).issueJob e).engine =
      { queue :=
          u.engine.queue.map (Job.voidWhere fun j => j.matches d.ref || j.matches e.ref) ++
            [d, e].take (32 - u.engine.queue.length),
        current := some { r with job := r.job.voidWhere fun j => j.matches d.ref || j.matches e.ref } } := by
  have first := State.issue_one_busy busy d
  have untouched : ([d].take (32 - u.engine.queue.length)).map (Job.voidWhere fun j => j.matches e.ref) =
      [d].take (32 - u.engine.queue.length) := by
    refine (List.map_congr_left fun j hj => ?_).trans (List.map_id _)
    obtain rfl : j = d := by simpa using List.mem_of_mem_take hj
    have : j.matches e.ref = false := Job.matches_apart apart.symm j (by simp [Job.matches, Job.ref])
    simp [Job.voidWhere, this]
  have later (j : Job) : (j.voidWhere fun j => j.matches d.ref).voidWhere (fun j => j.matches e.ref) =
      j.voidWhere fun j => j.matches d.ref || j.matches e.ref := Job.voidWhere_voidWhere (fun _ _ => rfl) j
  rw [State.issue_one_busy (by rw [first]) e, first]
  simp only [List.map_append, List.map_map, untouched, later, List.append_assoc, List.length_append, List.length_map,
    room_for_two]
  congr 2
  exact List.map_congr_left fun j _ => later j

/-- What two issues void or refuse together. -/
theorem State.late_at_two_issues (apart : d.ref ≠ e.ref) :
    u.lateAtIssue d + (u.issueJob d).lateAtIssue e =
      u.engine.inFlight.countP (fun j => (j.matches d.ref || j.matches e.ref) && !j.void) +
        (2 - (32 - u.engine.queue.length)) := by
  have first := State.issue_one_busy busy d
  have placed : ([d].take (32 - u.engine.queue.length)).countP (fun j => j.matches e.ref && !j.void) = 0 := by
    rw [List.countP_eq_zero]
    intro j hj
    obtain rfl : j = d := by simpa using List.mem_of_mem_take hj
    simp [Job.matches_apart apart.symm j (by simp [Job.matches, Job.ref])]
  have flight : (u.issueJob d).engine.inFlight =
      u.engine.inFlight.map (Job.voidWhere fun j => j.matches d.ref) ++ [d].take (32 - u.engine.queue.length) := by
    rw [first]; simp [Engine.inFlight, busy]
  have length : (u.issueJob d).engine.queue.length = u.engine.queue.length + min (32 - u.engine.queue.length) 1 := by
    rw [first]; simp
  have kinds (j : Job) : j.matches e.ref = true → j.matches d.ref = false := Job.matches_apart apart j
  rw [State.lateAtIssue_eq, State.lateAtIssue_eq, flight, length, List.countP_append, placed,
    countP_live_voidWhere _ (fun _ _ => rfl) kinds, ← countP_live_or _ kinds]
  omega

end Busy

/-! ## The boundary's issues all together -/

/-- The boundary's other work leaves the engine, the engine-late counter and ENGINE-LATE alone. -/
theorem State.OwesOpen.boundary_leaves {s : State} {n : Nat} {b : Binding} (owes : s.OwesOpen n b) :
    (s.boundary n).engine = s.engine ∧
      ((s.boundary n).channel n).counters.engineLate = (s.channel n).counters.engineLate ∧
      (s.boundary n).status.flags.getLsbD 5 = s.status.flags.getLsbD 5 ∧
      s.status.NoticeFollows (s.boundary n).status := by
  rw [owes.boundary_eq]
  refine ⟨s.openBoundary_engine n b, ?_, ?_, ?_⟩
  · rw [State.openBoundary_counters owes.lt b, ContextCounters.decided_eq]
  · rw [State.openBoundary_status, State.decidedBoundary_status s n b owes.lt, Status.healthMoved_flag]; simp
  · rw [State.openBoundary_status, State.decidedBoundary_status s n b owes.lt]
    exact .healthMoved _ _ _ _

theorem min_min_add (a k l : Nat) : min 65535 (min 65535 (a + k) + l) = min 65535 (a + (k + l)) := by
  omega

theorem add_bne_zero (k l : Nat) : (k + l != 0) = (k != 0 || l != 0) := by
  cases k <;> cases l <;> simp

/-- The engine-late counter and ENGINE-LATE after issues of one context. -/
theorem State.issueJob_late {u : State} {d : Job} (hn : d.context < 192)
    (limit : (u.channel d.context).counters.engineLate ≤ 65535) :
    ((u.issueJob d).channel d.context).counters.engineLate =
        min 65535 ((u.channel d.context).counters.engineLate + u.lateAtIssue d) ∧
      (u.issueJob d).status.flags.getLsbD 5 = (u.status.flags.getLsbD 5 || u.lateAtIssue d != 0) := by
  refine ⟨by rw [State.issueJob_channel_self u d hn limit], ?_⟩
  rw [State.issueJob_flag]; simp

theorem Channel.decodeIssue_kind {p : Playout} (c : Channel) (n : Nat) (b : Binding) (a : Applied) (depth limit : Nat) :
    (c.decodeIssue n b a (p.decide depth limit).work).ref = { context := n, kind := .decode } := by
  simp [Job.ref, Channel.decodeIssue, Playout.decide_kind]

theorem Channel.encodeIssue_kind (c : Channel) (n : Nat) (b : Binding) (a : Applied) :
    (c.encodeIssue n b a).ref = { context := n, kind := .encode } :=
  rfl

/-- A job voided by the issues of a boundary: of the context, and past the first boundary of either kind. -/
theorem mine_eq (first : Bool) (n : Nat) (j : Job) :
    (j.context == n && (j.work.kind == .decode || !first)) =
      (j.matches { context := n, kind := .decode } || (!first && j.matches { context := n, kind := .encode })) := by
  unfold Job.matches
  cases first <;> cases j.work.kind <;> cases j.context == n <;> simp

end Sys2Proof.Machine

/-! The obligations about issues and about the close that completes (1.6, 2.5, 5.3 to 5.5). -/

namespace Sys2Proof.Machine

/-- The jobs that the issues of a boundary void: those of the context, the ENCODE ones past the first boundary alone. -/
def boundaryVoids (n : Nat) (first : Bool) (j : Job) : Bool :=
  j.context == n && (j.work.kind == .decode || !first)

/-- The issues of a boundary at a busy engine: what is voided, what the queue takes, what is counted. -/
theorem State.issueJobs_busy {u : State} {r : Run} (busy : u.engine.current = some r) {n : Nat} (hn : n < 192) {d e : Job}
    (decode : d.ref = { context := n, kind := .decode }) (encode : e.ref = { context := n, kind := .encode })
    (limit : (u.channel n).counters.engineLate ≤ 65535) (first : Bool) {issued : List Job}
    (hissued : issued = if first then [d] else [d, e]) {late : Nat}
    (hlate : late = u.engine.inFlight.countP (fun j => boundaryVoids n first j && !j.void) +
      (issued.length - (32 - u.engine.queue.length))) :
    (u.issueJobs issued).engine =
        { queue := u.engine.queue.map (Job.voidWhere (boundaryVoids n first)) ++ issued.take (32 - u.engine.queue.length),
          current := some { r with job := r.job.voidWhere (boundaryVoids n first) } } ∧
      ((u.issueJobs issued).channel n).counters.engineLate = min 65535 ((u.channel n).counters.engineLate + late) ∧
      (u.issueJobs issued).status.flags.getLsbD 5 = (u.status.flags.getLsbD 5 || late != 0) := by
  have decodeContext : d.context = n := congrArg JobRef.context decode
  have encodeContext : e.context = n := congrArg JobRef.context encode
  have apart : d.ref ≠ e.ref := by rw [decode, encode]; simp
  have voids : boundaryVoids n first = fun j => j.matches d.ref || (!first && j.matches e.ref) := by
    funext j
    rw [boundaryVoids, mine_eq, decode, encode]
  obtain ⟨late1, flag1⟩ := State.issueJob_late (u := u) (d := d) (by rw [decodeContext]; exact hn) (by rw [decodeContext]; exact limit)
  rw [decodeContext] at late1
  rw [hissued] at hlate ⊢
  rw [voids] at hlate ⊢
  cases first with
  | true =>
    simp only [if_true, Bool.not_true, Bool.false_and, Bool.or_false] at hlate ⊢
    have total : u.lateAtIssue d = late := (State.lateAtIssue_eq d).trans hlate.symm
    rw [total] at late1 flag1
    exact ⟨State.issue_one_busy busy d, late1, flag1⟩
  | false =>
    simp only [Bool.false_eq_true, if_false, Bool.not_false, Bool.true_and] at hlate ⊢
    have total : u.lateAtIssue d + (u.issueJob d).lateAtIssue e = late :=
      (State.late_at_two_issues busy d e apart).trans hlate.symm
    obtain ⟨late2, flag2⟩ := State.issueJob_late (u := u.issueJob d) (d := e) (by rw [encodeContext]; exact hn)
      (by rw [encodeContext, late1]; omega)
    rw [encodeContext, late1, min_min_add, total] at late2
    rw [flag1, Bool.or_assoc, ← add_bne_zero, total] at flag2
    have two : u.issueJobs [d, e] = (u.issueJob d).issueJob e := rfl
    rw [two]
    exact ⟨State.issue_two_busy busy d e apart, late2, flag2⟩

/-- Settles O12: the boundary's jobs, their issues in either order, and what both do at a busy engine. -/
theorem boundaryIssuesJobs : Obligations.BoundaryIssuesJobs := by
  rintro s n b c running rfl due state bound limit
  have owes : s.OwesOpen n b := ⟨running, due, state, bound⟩
  obtain ⟨engine, late, flag, notice⟩ := owes.boundary_leaves
  have jobs := owes.jobs
  refine ⟨_, owes.exec, fun decode encode hdecode hencode => ?_⟩
  have applied : (((s.openBoundary n b).issueJobs (s.boundaryJobs n)).channel n).applied =
      ((s.channel n).boundaryWork b s.stagingHold).applied :=
    (congrArg Channel.applied (State.issueJobs_channel_eq _ _ _)).trans (State.openBoundary_applied owes.lt b)
  rw [applied] at hdecode hencode
  rw [← owes.boundary_eq]
  have kind : decode.work.kind = .decode := by rw [hdecode]; exact Playout.decide_kind _ _ _
  have decodeRef : decode.ref = { context := n, kind := .decode } := by rw [Job.ref, kind, hdecode]
  have encodeRef : encode.ref = { context := n, kind := .encode } := by rw [hencode]; rfl
  have decodeContext : decode.context = n := congrArg JobRef.context decodeRef
  have encodeContext : encode.context = n := congrArg JobRef.context encodeRef
  have both : s.boundaryJobs n = if (s.channel n).firstBoundary then [decode] else [decode, encode] := by
    rw [jobs, hdecode, hencode]
    cases (s.channel n).firstBoundary <;> rfl
  have issuedNotice := (State.issueJobs_status (s.boundaryJobs n) (s.boundary n)).2.1
  refine ⟨kind, both, fun first => ?_, fun past => ⟨?_, ?_, ?_⟩, engine, late, flag, notice.trans issuedNotice, ?_⟩
  · rw [both, first]; rfl
  · rw [both, past]; rfl
  · rw [owes.exec_order _ (by simp), both, past]
    simp [orderJobs, Job.matches, decodeContext, encodeContext, kind, show encode.work.kind = .encode from congrArg JobRef.kind encodeRef]
  · rw [owes.exec_order _ (by simp), both, past]
    simp [orderJobs, Job.matches, decodeContext, encodeContext, kind,
      show encode.work.kind = .encode from congrArg JobRef.kind encodeRef, State.issueJobs]
  · rintro r mine issued late' current hmine hissued hlate
    have busy : (s.boundary n).engine.current = some r := by rw [engine]; exact current
    obtain rfl : mine = boundaryVoids n (s.channel n).firstBoundary := funext hmine
    obtain ⟨engine', late'', flag'⟩ := State.issueJobs_busy busy owes.lt decodeRef encodeRef (by rw [late]; exact limit)
      (s.channel n).firstBoundary hissued (late := late') (by rw [engine]; exact hlate)
    rw [both, ← hissued]
    refine ⟨?_, by rw [late'', late], by rw [flag', flag]⟩
    rw [engine', engine]
    have run : ({ r with job := r.job.voidWhere (boundaryVoids n (s.channel n).firstBoundary) } : Run) =
        if boundaryVoids n (s.channel n).firstBoundary r.job then { r with job := { r.job with void := true } } else r := by
      unfold Job.voidWhere
      split <;> rfl
    rw [run]
    rfl

end Sys2Proof.Machine

/-! The close that completes at a boundary, and an issue as one event (1.6, 5.3 to 5.5). -/

namespace Sys2Proof.Machine

/-! ## Voiding (R94, R101) -/

theorem Channel.lateBy_of_limit {c : Channel} (limit : c.counters.engineLate ≤ 65535) (k : Nat) :
    c.lateBy k =
      { c with counters := { c.counters with engineLate := min 65535 (c.counters.engineLate + k) } } := by
  rw [Channel.lateBy_eq]
  split
  · rename_i none; simp [none, limit]
  · rfl

/-- What voiding leaves of the status: ENGINE-LATE set where a live job was voided. -/
theorem State.countEngineLate_status (s : State) (n k : Nat) :
    (s.countEngineLate n k).status.flags.getLsbD 5 = (s.status.flags.getLsbD 5 || k != 0) ∧
      (∀ b, b ≠ 5 → (s.countEngineLate n k).status.flags.getLsbD b = s.status.flags.getLsbD b) ∧
      s.status.NoticeFollows (s.countEngineLate n k).status := by
  refine ⟨by rw [State.countEngineLate_flag]; simp, fun b hb => ?_, s.countEngineLate_noticeFollows n k⟩
  rw [State.countEngineLate_flag]; simp [beq_false_of_ne hb]

/-- Settles O14: the voiding, the release, and the trace. -/
theorem closingCompletesAtBoundary : Obligations.ClosingCompletesAtBoundary := by
  rintro s n c late running rfl due closing limit hlate
  have hn : n < 192 := State.lt_of_not_free (by rw [closing]; decide)
  have no_jobs : s.boundaryJobs n = [] := by
    by_contra some_job
    obtain ⟨-, state, -⟩ := State.boundaryJobs_ne_nil some_job
    rw [closing] at state; cases state
  have count : s.engine.liveCount (fun j => j.context == n) = late := hlate.symm
  have channel : (s.closeBoundary n).channel n = ((s.channel n).lateBy late).released := by
    rw [State.closeBoundary_channel_eq, if_pos ⟨rfl, hn⟩, count]
  have engine : (s.closeBoundary n).engine = _ := State.voidJobs_engine s n fun j => j.context == n
  obtain ⟨flag, flags, notice⟩ := State.countEngineLate_status ({ s with engine := s.engine.voidWhere fun j => j.context == n } : State) n late
  have status : (s.closeBoundary n).status =
      (({ s with engine := s.engine.voidWhere fun j => j.context == n } : State).countEngineLate n late).status := by
    rw [← count]; rfl
  have void (j : Job) : j.voidWhere (fun j => j.context == n) = if j.context = n then { j with void := true } else j := by
    simp [Job.voidWhere]
  refine ⟨s.closeBoundary n, ?_, ?_, ?_, fun m hm => ?_, ?_, ?_, ?_, fun k hk => ?_, ?_, ?_, ?_, ?_, by simp⟩
  · rw [exec_contextBoundary running, State.contextBoundary_nil, no_jobs, State.boundary_closing due closing]
    rfl
  · rw [channel, Channel.lateBy_of_limit limit]; rfl
  · rw [channel]; rfl
  · rw [State.closeBoundary_channel_eq, if_neg (by simp [hm])]
  · rw [engine]; exact List.map_congr_left fun j _ => void j
  · rw [engine]
    refine congrArg (fun f => s.engine.current.map f) (funext fun r => ?_)
    rw [void]
    split <;> rfl
  · rw [status]; exact flag
  · rw [status]; exact flags k hk
  · rw [status]; exact notice
  · rw [status]; simp
  · rw [status]; simp
  · have closed : (s.closeBoundary n).trace = s.trace.closing n := by simp [State.closeBoundary]
    rw [closed]
    cases s.trace with
    | armed a => rfl
    | idle last aborted => rfl
    | filled a samples => rfl

/-! ## The order of the issues of one tick (R96) -/

/-- Of two jobs, the one that `order` names first, or alone, is issued first. -/
theorem orderJobs_sublist {before after : List JobRef} {r : JobRef} {jobs : List Job} {i j : Job} (hi : i ∈ jobs)
    (hj : j ∈ jobs) (named : i.matches r = true) (later : ∀ x ∈ before ++ [r], j.matches x = false) :
    [i, j].Sublist (orderJobs (before ++ r :: after) jobs) := by
  induction before generalizing jobs with
  | nil =>
    have off := later r (by simp)
    have rest : j ∈ jobs.filter fun y => !y.matches r := List.mem_filter.2 ⟨hj, by simp [off]⟩
    rw [List.nil_append, orderJobs]
    exact (List.singleton_sublist.2 (List.mem_filter.2 ⟨hi, named⟩)).append
      (List.singleton_sublist.2 ((mem_orderJobs _ _ _).2 rest))
  | cons x before ih =>
    have off := later x (by simp)
    have rest : j ∈ jobs.filter fun y => !y.matches x := List.mem_filter.2 ⟨hj, by simp [off]⟩
    rw [List.cons_append, orderJobs]
    cases h : i.matches x with
    | true =>
      exact (List.singleton_sublist.2 (List.mem_filter.2 ⟨hi, h⟩)).append
        (List.singleton_sublist.2 ((mem_orderJobs _ _ _).2 rest))
    | false =>
      refine (ih (List.mem_filter.2 ⟨hi, by simp [h]⟩) rest fun y hy => later y (List.mem_cons_of_mem _ hy)).trans ?_
      exact List.sublist_append_right _ _

theorem State.startRun_fade {s : State} {j : Job} {k : Nat} {f : Frame} (work : j.work = .conceal k f) {i : Fin 6}
    (hk : k = i.val + 1) : (s.startRun j).fade = s.tables.fade[i] := by
  simp [State.startRun, work, hk]

theorem State.startRun_collected {s : State} {j : Job} {w : EncodeWork} (work : j.work = .encode w) :
    (s.startRun j).collected =
      match w.bank with
      | .first => (s.channel j.context).buffers.firstBank
      | .second => (s.channel j.context).buffers.secondBank := by
  simp only [State.startRun, work, Buffers.collected] <;> rfl

/-- An issue: what it voids and counts, and where the new job goes. -/
theorem State.issueJob_event (s : State) (j : Job) {voided : Job → Job} {late : Nat}
    (hvoided : ∀ x, voided x = if x.context = j.context ∧ x.work.kind = j.work.kind then { x with void := true } else x)
    (hlate : late =
      s.engine.inFlight.countP (fun x => x.context == j.context && x.work.kind == j.work.kind && !x.void) +
        (if s.engine.queue.length < 32 then 0 else 1)) :
    ∃ u : State,
      (s.engine.queue.length < 32 →
        s.issueJob j = ({ u with engine := { u.engine with queue := u.engine.queue ++ [j] } } : State).takeJob) ∧
      (32 ≤ s.engine.queue.length → s.issueJob j = u) ∧
      u.engine =
        { queue := s.engine.queue.map voided, current := s.engine.current.map fun r => { r with job := voided r.job } } ∧
      (j.context < 192 → (s.channel j.context).counters.engineLate ≤ 65535 →
        u.channel j.context =
          { s.channel j.context with
            counters :=
              { (s.channel j.context).counters with
                engineLate := min 65535 ((s.channel j.context).counters.engineLate + late) } }) ∧
      (∀ m, m ≠ j.context → u.channel m = s.channel m) ∧
      u.status.flags.getLsbD 5 = (s.status.flags.getLsbD 5 || late != 0) ∧
      (∀ k, k ≠ 5 → u.status.flags.getLsbD k = s.status.flags.getLsbD k) ∧ s.status.NoticeFollows u.status ∧
      u.status.mask = s.status.mask ∧ u.status.counters = s.status.counters ∧
      u.status.healthChanged = s.status.healthChanged ∧ u.management = s.management ∧ u.highway = s.highway ∧
      u.links = s.links ∧ u.tables = s.tables ∧ u.stagingHold = s.stagingHold ∧ u.trace = s.trace ∧
      u.pending = s.pending := by
  have void : (Job.voidWhere fun x => x.matches j.ref) = voided := by
    funext x
    rw [hvoided]
    simp [Job.voidWhere, Job.matches, Job.ref]
  obtain ⟨mask, counters, healthChanged⟩ := s.issueJob_status j
  have total : s.lateAtIssue j = late := hlate.symm
  have voidedEngine := State.voidJobs_engine s j.context fun x => x.matches j.ref
  rw [void] at voidedEngine
  have length : (s.voidJobs j.context fun x => x.matches j.ref).engine.queue.length = s.engine.queue.length := by
    rw [voidedEngine]; simp
  have flag (k : Nat) := s.issueJob_flag j k
  have notice := s.issueJob_noticeFollows j
  have channel := State.issueJob_channel_self s j
  have others := s.issueJob_channel_ne j
  rw [total] at channel
  simp only [total] at flag
  by_cases room : s.engine.queue.length < 32
  · have placed : s.issueJob j = _ := State.placeJob_room (j := j) (by omega : (s.voidJobs j.context _).engine.queue.length < 32)
    rw [placed] at flag notice channel others mask counters healthChanged
    simp only [State.takeJob_status, State.takeJob_channel] at flag notice channel others mask counters healthChanged
    refine ⟨s.voidJobs j.context fun x => x.matches j.ref, fun _ => placed, fun full => absurd room (by omega), voidedEngine,
      channel, others, ?_, fun k hk => ?_, notice, mask, counters, healthChanged, by simp⟩
    · simpa using flag 5
    · simpa [beq_false_of_ne hk] using flag k
  · have placed : s.issueJob j = _ := State.placeJob_full (j := j) (by omega : 32 ≤ (s.voidJobs j.context _).engine.queue.length)
    refine ⟨s.issueJob j, fun h => absurd h room, fun _ => rfl, ?_, channel, others, ?_, fun k hk => ?_, notice, mask, counters,
      healthChanged, by simp⟩
    · rw [placed, State.countEngineLate_engine]; exact voidedEngine
    · simpa using flag 5
    · simpa [beq_false_of_ne hk] using flag k

/-- Settles O15: the issues of a tick and their order, an issue as one event, and the engine's taking. -/
theorem issuedJobsArePlacedAndTaken : Obligations.IssuedJobsArePlacedAndTaken := by
  refine ⟨⟨fun s n order running notDue others => ?_, fun s n order running => ?_, fun s n => ⟨fun m hm => ?_, ?_⟩,
    fun s j voided late hvoided hlate => s.issueJob_event j hvoided hlate⟩, fun s r => State.takeJob_busy,
    fun s => State.takeJob_none, fun s voids rest j idle queue void live => ?_⟩
  · rw [exec_contextBoundary running, State.contextBoundary, State.takeBoundaries_of_not_due]
    intro m hm
    rcases (mem_contextsNamed n m order).1 hm with rfl | ⟨r, hr, rfl⟩
    · exact notDue
    · exact others r hr
  · refine ⟨contextsNamed n order, orderJobs order ((contextsNamed n order).flatMap s.boundaryJobs),
      exec_contextBoundary running n order, contextsNamed_ascending n order, fun m => mem_contextsNamed n m order,
      orderJobs_perm _ _, ?_, ?_⟩
    · rintro before after r i j rfl hi hj named later
      exact orderJobs_sublist ((mem_orderJobs _ _ _).1 hi) ((mem_orderJobs _ _ _).1 hj) named later
    · rw [exec_contextBoundary running, State.contextBoundary_nil]; rfl
  · exact s.boundary_channel_ne n m hm
  · intro h
    by_contra some_job
    obtain ⟨due, state, -⟩ := State.boundaryJobs_ne_nil some_job
    rcases h with notDue | notOpen
    · rw [notDue] at due; cases due
    · exact notOpen state
  · exact ⟨s.startRun j, State.takeJob_first idle queue void live, rfl, rfl, rfl, rfl,
      fun k f work i hk => State.startRun_fade work hk, fun w work => State.startRun_collected work⟩

end Sys2Proof.Machine

/-! Uplink playout: the decision of a boundary, concealment, and what becomes of an arrival (4.2, 4.3). -/

namespace Sys2Proof.Machine

/-! ## The decision (R78 to R85) -/

/-- A record in PLAYING whose next_seq stands at the head is the record that plays that head. -/
theorem Playout.playing_at {p : Playout} {head : Entry} (state : p.state = .playing) (at_head : head.seq = p.nextSeq) :
    ({ p with state := .playing, nextSeq := head.seq } : Playout) = p := by
  rw [at_head, ← state]

/-- The head is played in PLAYING where it stands at next_seq, and in SILENT wherever it stands. -/
theorem Playout.decide_head {p : Playout} {head : Entry} {rest : List Entry} (queue : p.queue = head :: rest)
    (played : (p.state = .playing ∧ head.seq = p.nextSeq) ∨ p.state = .silent) (depth limit : Nat) :
    p.decide depth limit = ({ p with state := .playing, nextSeq := head.seq } : Playout).playHead head rest := by
  rcases played with ⟨state, at_head⟩ | state
  · rw [Playout.playing_at state at_head]
    simp [Playout.decide, Playout.play, state, queue, at_head]
  · simp [Playout.decide, state, queue]

theorem Playout.decide_playing {p : Playout} (state : p.state = .playing) (depth limit : Nat) :
    p.decide depth limit = p.play := by
  simp [Playout.decide, state]

/-- A gap at next_seq, or an empty queue, is concealed. -/
theorem Playout.play_gap {p : Playout} (gap : ∀ head ∈ p.queue.head?, head.seq ≠ p.nextSeq) : p.play = p.playGap := by
  unfold Playout.play
  split
  · rfl
  · rename_i head rest queue
    exact if_neg (gap head (by simp [queue]))

/-- A decision in PLAYING that counts a lost or a damaged frame conceals. -/
theorem Playout.play_conceals {p : Playout} (counted : p.play.counted = .lost ∨ p.play.counted = .damaged) :
    p.play.recorded = .lost ∧ p.play.work = p.conceal.2 := by
  have gap : p.playGap.recorded = .lost ∧ p.playGap.work = p.conceal.2 := ⟨rfl, rfl⟩
  unfold Playout.play at counted ⊢
  split at counted
  · exact gap
  · split at counted
    · rename_i head rest _ at_head
      cases body : head.body with
      | speech f => simp [Playout.playHead, body] at counted
      | silence => simp [Playout.playHead, body] at counted
      | damaged => simp [Playout.playHead, body, at_head, Playout.conceal]
    · rename_i off
      simpa [off] using gap

theorem Playout.conceal_work_zero {p : Playout} (h : p.lastGood = none ∨ 7 ≤ min 255 (p.lossCount + 1)) :
    p.conceal.2 = .zero := by
  unfold Playout.conceal runUp
  dsimp only
  split
  · rename_i f good
    have many : 7 ≤ min 255 (p.lossCount + 1) := h.resolve_left (by simp [good])
    exact if_neg (by omega)
  · rfl

/-- Settles O17, decision by decision. -/
theorem playoutDecisionTable : Obligations.PlayoutDecisionTable := by
  refine ⟨fun p depth limit =>
    ⟨fun state ready => ?_, fun state short waits => ?_, fun state gap => ?_, fun state empty => ?_,
      fun head rest queue played => ⟨fun f body => ?_, fun body => ?_, fun body => ?_⟩⟩,
    fun p k hk => ⟨?_, fun f good few => ?_, fun h => ?_, fun depth limit state counted => ?_⟩⟩
  · rw [Playout.decide_playing (p := { p with state := .playing }) rfl]
    simp [Playout.decide, state, if_pos ready]
  · have primes : ¬(depth ≤ p.queue.length ∨ (limit ≤ p.primingCount ∧ p.queue ≠ [])) := by
      rintro (enough | ⟨full, some⟩)
      · omega
      · exact waits.elim (fun h => by omega) some
    simp only [Playout.decide, state, if_neg primes, runUp]
  · rw [Playout.decide_playing state, Playout.play_gap gap]
    rfl
  · simp [Playout.decide, state, empty, Config.silentLimit]
  · rw [Playout.decide_head queue played]
    simp only [Playout.playHead, body]
  · rw [Playout.decide_head queue played]
    simp only [Playout.playHead, body]
  · rw [Playout.decide_head queue played]
    simp only [Playout.playHead, body, Playout.conceal]
  · rw [hk]; rfl
  · subst hk
    simp only [Playout.conceal, good, runUp]
    exact if_pos few
  · exact Playout.conceal_work_zero (hk ▸ h)
  · rw [Playout.decide_playing state] at counted ⊢
    exact Playout.play_conceals counted

/-! ## Arrivals (R69 to R75) -/

theorem Mode.width_of_ofNat? {k : Nat} {m : Mode} (h : Mode.ofNat? k = some m) : k = m.width := by
  unfold Mode.ofNat? at h
  split at h <;> cases h <;> rfl

/-- Where an entry is put: behind all that are not farther, before the first that is. -/
theorem insertEntry_split (ref : Byte) (e : Entry) (queue : List Entry) :
    ∃ front back, queue = front ++ back ∧ insertEntry ref e queue = front ++ e :: back ∧
      (∀ q ∈ front, distance q.seq ref ≤ distance e.seq ref) ∧
      ∀ q ∈ back.head?, distance e.seq ref < distance q.seq ref := by
  induction queue with
  | nil => exact ⟨[], [], rfl, rfl, by simp, by simp⟩
  | cons q qs ih =>
    by_cases nearer : distance e.seq ref < distance q.seq ref
    · exact ⟨[], q :: qs, rfl, by simp [insertEntry, nearer], by simp, by simpa using nearer⟩
    · obtain ⟨front, back, split, inserted, before, after⟩ := ih
      refine ⟨q :: front, back, by simp [split], by simp [insertEntry, nearer, inserted], fun x hx => ?_, after⟩
      rcases List.mem_cons.1 hx with rfl | hx
      · omega
      · exact before x hx

theorem replaceEntry_of_notMem {e : Entry} {queue : List Entry} (other : ∀ q ∈ queue, q.seq ≠ e.seq) :
    replaceEntry e queue = queue := by
  rw [replaceEntry]
  exact (List.map_congr_left fun q hq => if_neg (other q hq)).trans (List.map_id queue)

/-- The one entry of the sequence is replaced in its place. -/
theorem replaceEntry_split {e q : Entry} {front back : List Entry} (same : q.seq = e.seq)
    (other : ∀ x ∈ front ++ back, x.seq ≠ e.seq) : replaceEntry e (front ++ q :: back) = front ++ e :: back := by
  have here : replaceEntry e [q] = [e] := by simp [replaceEntry, same]
  have parts : replaceEntry e (front ++ q :: back) = replaceEntry e front ++ replaceEntry e [q] ++ replaceEntry e back := by
    simp [replaceEntry]
  rw [parts, here, replaceEntry_of_notMem fun x hx => other x (List.mem_append_left _ hx),
    replaceEntry_of_notMem fun x hx => other x (List.mem_append_right _ hx)]
  simp

theorem find?_seq_split {seq : Byte} {q : Entry} {front back : List Entry} (same : q.seq = seq)
    (other : ∀ x ∈ front ++ back, x.seq ≠ seq) : (front ++ q :: back).find? (fun x => x.seq == seq) = some q := by
  have none : front.find? (fun x => x.seq == seq) = none := by
    simpa using fun x hx => other x (List.mem_append_left _ hx)
  simp [List.find?_append, none, same]

section Dispose

variable {p : Playout} {e : Entry}

theorem Playout.dispose_late (far : 128 ≤ distance e.seq p.nextSeq) : p.dispose e = (p, .late) := by
  simp only [Playout.dispose, if_pos far]

theorem Playout.dispose_resync (far : 8 ≤ distance e.seq p.nextSeq) (near : distance e.seq p.nextSeq ≤ 127) :
    p.dispose e =
      ({ p with queue := [e], nextSeq := e.seq, state := .priming, primingCount := 0, silentGap := 0 },
        .resynced p.queue.length) := by
  simp only [Playout.dispose, if_neg (show ¬128 ≤ distance e.seq p.nextSeq by omega), if_pos far]

theorem Playout.dispose_new (near : distance e.seq p.nextSeq ≤ 7) (new : ∀ q ∈ p.queue, q.seq ≠ e.seq) :
    p.dispose e = ({ p with queue := insertEntry p.nextSeq e p.queue }, .inserted) := by
  have none : p.queue.find? (fun q => q.seq == e.seq) = none := by simpa using new
  simp only [Playout.dispose, if_neg (show ¬128 ≤ distance e.seq p.nextSeq by omega),
    if_neg (show ¬8 ≤ distance e.seq p.nextSeq by omega), none]

theorem Playout.dispose_same (near : distance e.seq p.nextSeq ≤ 7) {q : Entry} {front back : List Entry}
    (queue : p.queue = front ++ q :: back) (same : q.seq = e.seq) (other : ∀ x ∈ front ++ back, x.seq ≠ e.seq) :
    p.dispose e =
      if q.body = .damaged ∧ e.body ≠ .damaged then ({ p with queue := front ++ e :: back }, .inserted)
      else (p, .duplicate) := by
  simp only [Playout.dispose, if_neg (show ¬128 ≤ distance e.seq p.nextSeq by omega),
    if_neg (show ¬8 ≤ distance e.seq p.nextSeq by omega), queue, find?_seq_split same other, replaceEntry_split same other]

end Dispose

/-- The request of a taken arrival, where it is followed. -/
theorem Channel.takeRequest_eq (c : Channel) (request : BitVec 4) :
    c.takeRequest request = c ∨
      (c.applied.followRequests = true ∧
        ∃ m : Mode, request.toNat = m.width ∧ c.takeRequest request = { c with waiting := { c.waiting with target := some m } }) := by
  unfold Channel.takeRequest
  split
  · rename_i m follows mode
    exact .inr ⟨follows, m, Mode.width_of_ofNat? mode, rfl⟩
  · exact .inl rfl

theorem Channel.takeRequest_of_follows {c : Channel} {request : BitVec 4} {m : Mode}
    (follows : c.applied.followRequests = true) (mode : request.toNat = m.width) :
    c.takeRequest request = { c with waiting := { c.waiting with target := some m } } := by
  simp only [Channel.takeRequest, follows, mode, Mode.ofNat?_width]

section Arrive

variable {c : Channel} {seq : Byte} {body : EntryBody} {p q : Playout} {d : Disposal}

/-- An arrival that was not taken. -/
theorem Channel.arrive_of_refused (anchored : c.playout.anchor seq = q) (h : q.dispose { seq := seq, body := body } = (p, d))
    (refused : d.taken = false) (request quality : BitVec 4) :
    c.arrive seq body request quality = { c with counters := c.counters.disposed d, playout := p } := by
  simp [Channel.arrive, anchored, h, refused]

/-- An arrival that was taken gives its quality and, where it may, its request. -/
theorem Channel.arrive_of_taken (anchored : c.playout.anchor seq = q) (h : q.dispose { seq := seq, body := body } = (p, d))
    (taken : d.taken = true) (request quality : BitVec 4) :
    (c.arrive seq body request quality).playout = p.takeQuality quality ∧
      (c.arrive seq body request quality).counters = c.counters.disposed d ∧
      ∀ m : Mode, c.applied.followRequests = true → request.toNat = m.width →
        (c.arrive seq body request quality).waiting = { c.waiting with target := some m } := by
  refine ⟨by rw [Channel.arrive_playout, anchored, h, if_pos taken],
    by rw [Channel.arrive_counters, anchored, h], fun m follows mode => ?_⟩
  simp only [Channel.arrive, anchored, h, if_pos taken]
  rw [Channel.takeRequest_of_follows (m := m) (by exact follows) mode]

end Arrive

/-- The pending record changes by a followed request alone. -/
theorem Channel.arrive_waiting (c : Channel) (seq : Byte) (body : EntryBody) (request quality : BitVec 4) :
    (c.arrive seq body request quality).waiting = c.waiting ∨
      (c.applied.followRequests = true ∧ ∃ m : Mode, request.toNat = m.width ∧
        (c.arrive seq body request quality).waiting = { c.waiting with target := some m }) := by
  unfold Channel.arrive
  dsimp only
  split
  · rcases Channel.takeRequest_eq _ request with same | ⟨follows, m, mode, eq⟩
    · rw [same]; exact .inl rfl
    · exact .inr ⟨follows, m, mode, by rw [eq]⟩
  · exact .inl rfl

/-- Settles O18, by the arrival's distance. -/
theorem arrivalDisposition : Obligations.ArrivalDisposition := by
  rintro c seq body request quality p d t anchored rfl rfl
  replace anchored : c.playout.anchor seq = p := by rw [anchored]; rfl
  refine ⟨fun far => ?_, fun far near => ?_, fun near new => ?_,
    fun front q back near queue same other => ⟨fun damaged repairs => ?_, fun duplicate => ?_⟩,
    c.arrive_waiting seq body request quality, fun m near new follows mode => ?_, c.arrive_eq seq body request quality⟩
  · rw [Channel.arrive_of_refused anchored (Playout.dispose_late (e := ⟨seq, body⟩) far) rfl]
    rfl
  · obtain ⟨playout, counters, -⟩ :=
      Channel.arrive_of_taken anchored (Playout.dispose_resync (e := ⟨seq, body⟩) far near) rfl request quality
    exact ⟨playout, counters⟩
  · obtain ⟨playout, counters, -⟩ :=
      Channel.arrive_of_taken anchored (Playout.dispose_new (e := ⟨seq, body⟩) near new) rfl request quality
    rw [playout]
    exact ⟨insertEntry_split p.nextSeq ⟨seq, body⟩ p.queue, rfl, counters⟩
  · have disposed := Playout.dispose_same (e := ⟨seq, body⟩) near queue same other
    rw [if_pos ⟨damaged, repairs⟩] at disposed
    obtain ⟨playout, counters, target⟩ := Channel.arrive_of_taken anchored disposed rfl request quality
    rw [playout, counters]
    exact ⟨rfl, rfl, target⟩
  · have disposed := Playout.dispose_same (e := ⟨seq, body⟩) near queue same other
    have keeps : ¬(q.body = .damaged ∧ body ≠ .damaged) := fun ⟨damaged, repairs⟩ => duplicate.elim (· damaged) repairs
    rw [if_neg keeps] at disposed
    rw [Channel.arrive_of_refused anchored disposed rfl]
    rfl
  · rcases Nat.lt_or_ge 7 (distance seq p.nextSeq) with far | close
    · exact (Channel.arrive_of_taken anchored (Playout.dispose_resync (e := ⟨seq, body⟩) far near) rfl request
        quality).2.2 m follows mode
    · exact (Channel.arrive_of_taken anchored (Playout.dispose_new (e := ⟨seq, body⟩) close new) rfl request
        quality).2.2 m follows mode

end Sys2Proof.Machine

/-! Arrivals at the link ports: the ingress check, the pass-through queues, and port A's routing (3.1, 3.2, 3.4). -/

namespace Sys2Proof.Machine

/-! ## The ingress check (R43, R44) -/

theorem exec_unitArrival {s : State} (running : s.running) (port : Port) (bytes : List Byte) :
    exec (.unitArrival port bytes) s = .next (s.arrive port bytes) :=
  if_neg running

theorem State.arrive_abandoned {s : State} {port : Port} (h : s.reception port = .abandoned) (bytes : List Byte) :
    s.arrive port bytes = s.endReception port := by
  simp [State.arrive, h]

theorem State.arrive_taking {s : State} {port : Port} (h : s.reception port = .none) (bytes : List Byte) :
    s.arrive port bytes = s.takeUnit port bytes := by
  simp [State.arrive, h]

theorem State.takeUnit_fails {bytes : List Byte} (fails : ingress bytes = none) (s : State) (port : Port) :
    s.takeUnit port bytes = s.countCheckFailure port := by
  simp [State.takeUnit, fails]

/-- A unit that the check takes has its length and its check byte in their places. -/
theorem places_of_ingress {bytes : List Byte} {taken : Header × List Byte} (h : ingress bytes = some taken) :
    ∃ len check : Byte, bytes[5]? = some len ∧ bytes[6]? = some check ∧ bytes.length = 7 + len.toNat ∧
      check = crc8 (bytes.take 6) := by
  unfold ingress at h
  split at h
  · cases h
  · rename_i header check payload parsed
    split at h
    · rename_i passed
      obtain ⟨length, right⟩ := passed
      unfold parseUnit at parsed
      split at parsed
      · cases parsed
        exact ⟨_, _, rfl, rfl, by simp only [List.length_cons, length]; omega, right⟩
      · cases parsed
    · cases h

theorem hiNibble_append (a b : BitVec 4) : hiNibble (a ++ b) = a :=
  BitVec.extractLsb'_append_eq_left

theorem loNibble_append (a b : BitVec 4) : loNibble (a ++ b) = b :=
  BitVec.extractLsb'_append_eq_right

/-- What is built is read back. -/
theorem ingress_unit (h : Header) {payload : List Byte} (length : payload.length = h.length.toNat) :
    ingress (h.unit payload) = some (h, payload) := by
  have label := word16_bytes h.label
  simp only [Header.unit, Header.front, bytes16_eq, ingress, parseUnit, List.cons_append, List.nil_append, label,
    hiNibble_append, loNibble_append]
  exact if_pos ⟨length, rfl⟩

/-- Settles O19. -/
theorem ingressTakesBuiltUnitsAlone : Obligations.IngressTakesBuiltUnitsAlone := by
  refine ⟨fun s bytes running => ⟨fun a => ?_, fun b => ?_⟩, fun s bytes running wrong => ?_,
    fun h payload length => ingress_unit h length⟩
  · rw [exec_unitArrival running, State.arrive_abandoned (port := .a) a]; rfl
  · rw [exec_unitArrival running, State.arrive_abandoned (port := .b) b]; rfl
  · have fails : ingress bytes = none := by
      cases h : ingress bytes with
      | none => rfl
      | some taken => exact absurd (places_of_ingress h) wrong
    refine ⟨fun a => ?_, fun b => ?_⟩
    · rw [exec_unitArrival running, State.arrive_taking (port := .a) a, State.takeUnit_fails fails]; rfl
    · rw [exec_unitArrival running, State.arrive_taking (port := .b) b, State.takeUnit_fails fails]; rfl

/-! ## The pass-through queues (R49, R53) -/

/-- A unit taken at port A is routed. -/
theorem exec_arrival_a {s : State} {h : Header} {payload bytes : List Byte} (running : s.running)
    (taking : s.links.portA.reception = .none) (taken : ingress bytes = some (h, payload)) :
    exec (.unitArrival .a bytes) s = .next (s.routeA bytes h payload) := by
  rw [exec_unitArrival running, State.arrive_taking (port := .a) taking, State.takeUnit, taken]

/-- A unit taken at port B is offered to the queue toward port A. -/
theorem exec_arrival_b {s : State} {h : Header} {payload bytes : List Byte} (running : s.running)
    (taking : s.links.portB.reception = .none) (taken : ingress bytes = some (h, payload)) :
    exec (.unitArrival .b bytes) s = .next (s.offerBToA bytes) := by
  rw [exec_unitArrival running, State.arrive_taking (port := .b) taking, State.takeUnit, taken]

/-- A unit that neither the management label nor a window claims. -/
theorem State.routeA_foreign {s : State} {h : Header} (other : h.label ≠ s.managementLabel)
    (unclaimed : s.tables.lookup h.label = none) (bytes payload : List Byte) :
    s.routeA bytes h payload = if s.management.straps.chainEnd then s.countUnclaimed else s.offerAToB bytes := by
  simp only [State.routeA, if_neg other, unclaimed, State.routeForeign]

/-- Settles O20. -/
theorem passThroughQueuesOrDrops : Obligations.PassThroughQueuesOrDrops := by
  refine fun s h payload bytes running portA portB taken =>
    ⟨fun room => ?_, fun full => ?_, fun other unclaimed middle => ⟨fun room => ?_, fun full => ?_⟩⟩
  · rw [exec_arrival_b running portB taken]
    exact congrArg _ (if_pos room)
  · rw [exec_arrival_b running portB taken]
    exact congrArg _ (if_neg (by simpa [Config.passQueue] using full))
  all_goals
    rw [exec_arrival_a running portA taken, State.routeA_foreign other unclaimed, middle, if_neg Bool.false_ne_true]
  · exact congrArg _ (if_pos room)
  · exact congrArg _ (if_neg (by simpa [Config.passQueue] using full))

/-! ## Routing at port A (R46 to R48, R68) -/

/-- The kinds of header code that a context takes. -/
theorem UnitKind.ofCode?_speech : UnitKind.ofCode? 1 = some .speech := rfl

theorem UnitKind.ofCode?_silence : UnitKind.ofCode? 2 = some .silence := rfl

theorem UnitKind.ofCode?_eq_control {code : BitVec 4} : UnitKind.ofCode? code = some .control ↔ code = 3 := by
  revert code; decide

/-- A claimed unit of another kind is bad. -/
theorem State.routeClaimed_bad {s : State} {n : Nat} {h : Header} (context : n ≤ 191) (not_speech : h.kind ≠ 1)
    (not_silence : h.kind ≠ 2) (payload : List Byte) : s.routeClaimed n h payload = s.countBadKind := by
  have kind : ∀ code : BitVec 4, code ≠ 1 → code ≠ 2 →
      UnitKind.ofCode? code ≠ some .speech ∧ UnitKind.ofCode? code ≠ some .silence := by decide
  obtain ⟨no_speech, no_silence⟩ := kind h.kind not_speech not_silence
  unfold State.routeClaimed
  rw [if_neg (by omega)]
  split
  · exact absurd ‹_› no_speech
  · exact absurd ‹_› no_silence
  · rfl

/-- A claimed SPEECH or SILENCE unit is for its context. -/
theorem State.routeClaimed_unit {n : Nat} (context : n ≤ 191) (s : State) (h : Header) (payload : List Byte) :
    (h.kind = 1 → s.routeClaimed n h payload = s.deliverUnit n .speech h payload) ∧
      (h.kind = 2 → s.routeClaimed n h payload = s.deliverUnit n .silence h payload) := by
  constructor <;> intro kind <;>
    simp only [State.routeClaimed, if_neg (show ¬191 < n by omega), kind, UnitKind.ofCode?_speech, UnitKind.ofCode?_silence]

/-- A SPEECH unit that fails the check of its payload, in mode, length or CRC, is DAMAGED. -/
theorem classify_damaged {h : Header} {payload : List Byte}
    (wrong : ∀ mode : Mode, h.mode.toNat = mode.width → payload.length = mode.payloadLength →
      payload.getLast? ≠ some (crc8 payload.dropLast)) : classify .speech h payload = .damaged := by
  unfold classify
  dsimp only
  split
  · rfl
  · rename_i mode named
    refine if_neg fun ⟨length, right⟩ => wrong mode (Mode.width_of_ofNat? named) length ?_
    simpa [payloadCheckRight] using right

theorem classify_speech {h : Header} {payload : List Byte} {mode : Mode} (named : h.mode.toNat = mode.width)
    (length : payload.length = mode.payloadLength) (right : payload.getLast? = some (crc8 payload.dropLast)) :
    classify .speech h payload = .speech (unpackFrame mode payload) := by
  simp [classify, named, length, payloadCheckRight, right]

theorem Window.matches_iff (w : Window) (label : BitVec 16) :
    w.matches label = true ↔ w.valid = true ∧ w.base.toNat ≤ label.toNat ∧ label.toNat ≤ w.limit.toNat := by
  simp [Window.matches, and_assoc]

/-- The first window that covers a label gives the label's number. -/
theorem Tables.lookup_first {t : Tables} {label : BitVec 16} {i : Fin 32} (covers : t.window[i].matches label = true)
    (first : ∀ j : Fin 32, j < i → t.window[j].matches label = false) :
    t.lookup label = some (t.window[i].first + (label.toNat - t.window[i].base.toNat)) := by
  have found : t.window.toArray.toList.find? (fun w => w.matches label) = some t.window[i] := by
    refine List.find?_eq_some_iff_getElem.2 ⟨covers, i, by simp, by simp, fun j hj => ?_⟩
    simpa using first ⟨j, by omega⟩ hj
  rw [Tables.lookup, found, Option.map_some]

theorem Tables.lookup_none {t : Tables} {label : BitVec 16} (uncovered : ∀ i : Fin 32, t.window[i].matches label = false) :
    t.lookup label = none := by
  have none : t.window.toArray.toList.find? (fun w => w.matches label) = none := by
    refine List.find?_eq_none.2 fun w hw => ?_
    obtain ⟨i, hi, rfl⟩ := List.mem_iff_getElem.1 hw
    simpa using uncovered ⟨i, by simpa using hi⟩
  rw [Tables.lookup, none, Option.map_none]

/-- Settles O21. -/
theorem portARoutesByLabelAndKind : Obligations.PortARoutesByLabelAndKind := by
  refine ⟨fun s h payload bytes running taking taken =>
    ⟨fun label kind => ?_, fun label kind => ?_, fun other unclaimed last => ?_, fun n other claimed => ?_⟩,
    fun t label => ⟨fun i valid base limit first => ?_, fun none => ?_⟩⟩
  · rw [exec_arrival_a running taking taken, State.routeA, if_pos label]
    exact congrArg _ (if_pos (UnitKind.ofCode?_eq_control.2 kind))
  · rw [exec_arrival_a running taking taken, State.routeA, if_pos label]
    exact congrArg _ (if_neg (mt UnitKind.ofCode?_eq_control.1 kind))
  · rw [exec_arrival_a running taking taken, State.routeA_foreign other unclaimed, if_pos last]
    rfl
  · have routed : exec (.unitArrival .a bytes) s = .next (s.routeClaimed n h payload) := by
      rw [exec_arrival_a running taking taken, State.routeA, if_neg other, claimed]
    rw [routed]
    refine ⟨fun out => ?_, fun context no_speech no_silence => ?_, fun context kind closed => ?_,
      fun context kind opened => ?_, fun context kind opened => ⟨fun mode named length right => ?_, fun wrong => ?_⟩⟩
    · exact congrArg _ (if_pos out)
    · rw [State.routeClaimed_bad context no_speech no_silence]
      rfl
    · obtain ⟨speech, silence⟩ := s.routeClaimed_unit context h payload
      refine congrArg _ (kind.elim (fun kind => (speech kind).trans ?_) fun kind => (silence kind).trans ?_)
      all_goals exact if_neg closed
    · rw [(s.routeClaimed_unit context h payload).2 kind]
      exact congrArg _ (if_pos opened)
    · rw [(s.routeClaimed_unit context h payload).1 kind, State.deliverUnit, if_pos opened,
        classify_speech named length right]
    · rw [(s.routeClaimed_unit context h payload).1 kind, State.deliverUnit, if_pos opened, classify_damaged wrong]
  · refine Tables.lookup_first ((Window.matches_iff _ _).2 ⟨valid, base, limit⟩) fun j hj => ?_
    exact Bool.eq_false_iff.2 fun covers => first j hj ((Window.matches_iff _ _).1 covers)
  · exact Tables.lookup_none fun i => Bool.eq_false_iff.2 fun covers => none i ((Window.matches_iff _ _).1 covers)

end Sys2Proof.Machine

/-! Port A's selection, a transmission's completion, and the peers' hold (3.6). -/

namespace Sys2Proof.Machine

/-! ## The arbiter (R58 to R60) -/

theorem LinkPort.ready_iff (p : LinkPort) : p.ready = true ↔ p.sending = none ∧ p.hold = false := by
  simp [LinkPort.ready]

theorem LinkPort.not_ready_iff (p : LinkPort) : p.ready = false ↔ p.sending.isSome = true ∨ p.hold = true := by
  unfold LinkPort.ready
  cases p.sending <;> cases p.hold <;> simp

theorem State.selectA_of_not_ready {s : State} (h : s.links.portA.ready = false) : s.selectA = s := by
  simp [State.selectA, h]

theorem State.selectA_of_choose {s : State} (ready : s.links.portA.ready = true) {side : Side}
    (chosen : s.links.choose = some side) :
    s.selectA =
      match side with
      | .originated => s.selectOriginated
      | .passThrough => { s with links := s.links.sendPassThrough } := by
  simp only [State.selectA, ready, if_true, chosen]
  cases side <;> rfl

theorem Links.choose_passThrough {l : Links} {unit : List Byte} {rest : List (List Byte)} (waits : l.bToA = unit :: rest)
    (turn : l.originated = [] ∨ l.lastServed = .originated) : l.choose = some .passThrough := by
  unfold Links.choose
  rw [waits]
  rcases turn with empty | last
  · rw [empty]
  · cases l.originated with
    | nil => rfl
    | cons u us => rw [last]

theorem Links.choose_originated {l : Links} (waits : l.originated ≠ []) (turn : l.bToA = [] ∨ l.lastServed = .passThrough) :
    l.choose = some .originated := by
  obtain ⟨u, us, queue⟩ := List.exists_cons_of_ne_nil waits
  unfold Links.choose
  rw [queue]
  rcases turn with empty | last
  · rw [empty]
  · cases l.bToA with
    | nil => rfl
    | cons p ps => rw [last]

theorem QueuedUnit.isStale_iff (u : QueuedUnit) (cycle : Byte) (limit : Nat) :
    u.isStale cycle limit = true ↔ (u.kind = .speech ∨ u.kind = .silence) ∧ limit ≤ (cycle - u.stamp).toNat := by
  rw [QueuedUnit.isStale, Bool.and_eq_true, UnitKind.perishable_iff]
  exact and_congr_right fun _ => decide_eq_true_iff

/-- The discard takes the stale units before the first that is not. -/
theorem dropStale_append {cycle : Byte} {limit : Nat} {stale kept : List QueuedUnit}
    (drops : ∀ u ∈ stale, u.isStale cycle limit = true) (stops : ∀ u ∈ kept.head?, ¬u.isStale cycle limit = true) :
    dropStale cycle limit (stale ++ kept) = kept := by
  rw [dropStale, List.dropWhile_append_of_pos drops]
  cases kept with
  | nil => rfl
  | cons u rest => exact List.dropWhile_cons_of_neg (stops u rfl)

/-- A selection that chose the originated queue, once its discard is known. -/
theorem State.selectOriginated_of_split {s : State} {stale kept : List QueuedUnit}
    (queue : s.links.originated = stale ++ kept)
    (discard : dropStale s.highway.cycleCounter (s.tables.setting 6) s.links.originated = kept) :
    s.selectOriginated =
      { s with
        links :=
          if kept = [] then ({ s.links with originated := kept } : Links).sendPassThrough
          else ({ s.links with originated := kept } : Links).sendOriginated,
        status :=
          ({ s.status with
              counters := { s.status.counters with stale := countUp s.status.counters.stale stale.length } } :
            Status).raiseIf (stale.length != 0) .egressDrop } := by
  have dropped : s.links.originated.length - kept.length = stale.length := by simp [queue]
  simp only [State.selectOriginated, discard, dropped]

/-- Settles O23. -/
theorem portASelection : Obligations.PortASelection := by
  refine fun s => ⟨fun stops => State.selectA_of_not_ready ((LinkPort.not_ready_iff _).2 stops), fun no_own no_other => ?_,
    fun free peer => ?_⟩
  · simp [State.selectA, Links.choose, no_own, no_other]
  have ready : s.links.portA.ready = true := (LinkPort.ready_iff _).2 ⟨free, peer⟩
  refine ⟨fun unit rest waits turn => ?_, fun stale kept status waits turn queue drops stops hstatus => ?_⟩
  · rw [State.selectA_of_choose ready (Links.choose_passThrough waits turn)]
    simp only [Links.sendPassThrough, waits]
  · have discard : dropStale s.highway.cycleCounter (s.tables.setting 6) s.links.originated = kept :=
      queue ▸ dropStale_append (fun u hu => (u.isStale_iff _ _).2 (drops u hu)) fun u hu => mt (u.isStale_iff _ _).1 (stops u hu)
    rw [State.selectA_of_choose ready (Links.choose_originated waits turn)]
    dsimp only
    rw [State.selectOriginated_of_split queue discard, hstatus]
    refine ⟨fun u rest first => ?_, fun empty none => ?_, fun unit rest empty other => ?_⟩
    · subst first
      simp only [if_neg (List.cons_ne_nil u rest), Links.sendOriginated]
      rfl
    · subst empty
      simp only [if_true, Links.sendPassThrough, none]
      rfl
    · subst empty
      simp only [if_true, Links.sendPassThrough, other]
      rfl

/-! ## Completions (R61, R62, R157) -/

theorem exec_transmissionComplete {s : State} (running : s.running) (port : Port) :
    exec (.transmissionComplete port) s = .next (s.complete port) :=
  if_neg running

theorem State.selectB_of_stopped {s : State} (h : s.links.portB.ready = false ∨ s.links.aToB = []) : s.selectB = s := by
  unfold State.selectB
  split
  · rename_i ready
    have empty := h.resolve_left (by simp [ready])
    simp only [Links.sendB, empty]
  · rfl

theorem State.selectB_of_cons {s : State} (ready : s.links.portB.ready = true) {unit : List Byte}
    {rest : List (List Byte)} (queue : s.links.aToB = unit :: rest) :
    s.selectB =
      { s with
        links :=
          { s.links with
            portB := { s.links.portB with sending := some { bytes := unit, origin := .passThrough, restarts := false } },
            aToB := rest } } := by
  simp only [State.selectB, if_pos ready, Links.sendB, queue]

/-- Settles O24. -/
theorem transmissionCompletes : Obligations.TransmissionCompletes := by
  refine fun s running => ⟨fun sent u sending hu => ?_, fun free => ?_, fun free => ?_, fun sent sending => ?_⟩
  · have freed : s.freedA sent = u := by rw [hu]; rfl
    have completed : exec (.transmissionComplete .a) s =
        .next (if sent.restarts = true ∧ s.management.restart.isSome = true then u.beginReset else u.selectA) := by
      rw [exec_transmissionComplete running, State.complete, sending, ← freed, ← State.completeA_eq]
    rw [completed]
    refine ⟨fun marked pending => congrArg _ (if_pos ⟨marked, pending⟩), fun not_begun => congrArg _ (if_neg ?_)⟩
    rintro ⟨marked, pending⟩
    rcases not_begun with unmarked | none
    · rw [unmarked] at marked; cases marked
    · rw [none] at pending; cases pending
  · rw [exec_transmissionComplete running, State.complete, free]
  · rw [exec_transmissionComplete running, State.complete, free]
  · have completed : exec (.transmissionComplete .b) s = .next s.completeB := by
      rw [exec_transmissionComplete running, State.complete, sending]
    rw [completed]
    refine ⟨fun stops => congrArg _ (State.selectB_of_stopped (stops.imp_left fun hold => ?_)), fun unit rest peer queue => ?_⟩
    · exact (LinkPort.not_ready_iff _).2 (.inr hold)
    · exact congrArg _ (State.selectB_of_cons
        (s := { s with links := { s.links with portB := { s.links.portB with sending := none } } })
        ((LinkPort.ready_iff _).2 ⟨rfl, peer⟩) queue)

/-! ## The peers' hold (R57) -/

/-- Settles O25. -/
theorem peerHoldStopsNewTransmissions : Obligations.PeerHoldStopsNewTransmissions := by
  refine fun s => ⟨rfl, rfl, fun running => ⟨if_neg running, ?_⟩, fun reset => ⟨if_pos reset, if_pos reset⟩⟩
  have released : exec (.peerHoldReleased .b) s = .next (s.withHold .b false).selectB := if_neg running
  rw [released]
  cases sending : s.links.portB.sending with
  | some sent =>
    have busy : (s.withHold .b false).links.portB.sending.isSome = true := by simp [State.withHold, sending]
    exact congrArg _ (State.selectB_of_stopped (.inl ((LinkPort.not_ready_iff _).2 (.inl busy))))
  | none =>
    cases queue : s.links.aToB with
    | nil => exact congrArg _ (State.selectB_of_stopped (.inr queue))
    | cons unit rest =>
      exact congrArg _ (State.selectB_of_cons (s := s.withHold .b false) ((LinkPort.ready_iff _).2 ⟨sending, rfl⟩) queue)

end Sys2Proof.Machine

/-! The rows of the command catalogue and the device commands (8.3, 8.4, 8.6, 8.7, 9.1 to 9.3). -/

namespace Sys2Proof.Machine

/-! ## Rows -/

/-- The catalogue row of a command. -/
def Command.row (c : Command) (env : Envelope) (args : List Byte) : Instr :=
  match c with
  | .identify => .identify env args
  | .setState => .setState env args
  | .hold => .hold env args
  | .release => .release env args
  | .restart => .restart env args
  | .openCall => .openCall env args
  | .modify => .modify env args
  | .close => .close env args
  | .contextReport => .contextReport env args
  | .writeTable => .writeTable env args
  | .writeNext => .writeNext env args
  | .readTable => .readTable env args
  | .readNext => .readNext env args
  | .readStatus => .readStatus env args
  | .clearFlags => .clearFlags env args
  | .setNoticeMask => .setNoticeMask env args
  | .traceArm => .traceArm env args
  | .traceRead => .traceRead env args

section Rows

variable {s : State} {c : Command} {env : Envelope} {args : List Byte}

/-- A row is a CONTROL unit whose list holds that one command. -/
theorem exec_row (running : s.running) (c : Command) (env : Envelope) (args : List Byte) :
    exec (c.row env args) s = .next (s.controlOne c env args) := by
  cases c <;> exact if_neg running

/-- A row whose command is accepted with data. -/
theorem exec_row_ok (running : s.running) (short : args.length ≤ 252) {u : State} {data : List Byte}
    (accepts : c.run true args s = .ok u data) : exec (c.row env args) s = .next (u.answer env c .ok data) := by
  rw [exec_row running, State.controlOne_of_ok short accepts]

/-- A row whose command is refused. -/
theorem exec_row_refuse (running : s.running) (short : args.length ≤ 252) {result : Result}
    (refuses : c.run true args s = .refuse s result) : exec (c.row env args) s = .next (s.answer env c result []) := by
  rw [exec_row running, State.controlOne_of_refuse short refuses]

/-- A row is the arrival of its unit, whatever the header fields that the part does not read. -/
theorem exec_row_eq_arrival (running : s.running) (taking : s.links.portA.reception = .none) (short : args.length ≤ 252)
    (c : Command) (mode request quality : BitVec 4) :
    exec (c.row env args) s =
      exec (.unitArrival .a
        (Header.unit
          { label := s.managementLabel, kind := 3, mode := mode, seq := env.seq, request := request, quality := quality,
            length := BitVec.ofNat 8 (3 + args.length) }
          (env.tag :: c.code :: BitVec.ofNat 8 args.length :: args))) s := by
  rw [exec_row running, exec_arrival_a running taking (ingress_unit _ (by simp; omega)), State.routeA, if_pos rfl]
  exact congrArg _ (if_pos (UnitKind.ofCode?_eq_control.2 rfl)).symm

end Rows

/-- Settles O26. -/
theorem catalogueRowIsOneCommandUnit : Obligations.CatalogueRowIsOneCommandUnit := by
  intro s env args mode request quality unit running taking short hunit
  have row (c : Command) : exec (c.row env args) s = exec (.unitArrival .a (unit c.code)) s := by
    rw [hunit, exec_row_eq_arrival running taking short c mode request quality]
  exact ⟨row .identify, row .setState, row .hold, row .release, row .restart, row .openCall, row .modify, row .close,
    row .contextReport, row .writeTable, row .writeNext, row .readTable, row .readNext, row .readStatus, row .clearFlags,
    row .setNoticeMask, row .traceArm, row .traceRead⟩

/-! ## The answer (R162, R167) -/

/-- The RESPONSE to one command, byte by byte. -/
theorem State.responseUnit_record (s : State) (env : Envelope) (c : Command) (result : Result) (data front : List Byte)
    (hfront : front =
      [0xFF, BitVec.ofNat 8 (0xF0 + s.management.straps.mgsel.toNat), 0x40, env.seq, 0x00,
        BitVec.ofNat 8 (4 + data.length)]) :
    s.responseUnit env.seq (env.tag :: recordBytes c.code result data) =
      front ++ [crc8 front] ++ [env.tag, c.code, result.code, BitVec.ofNat 8 data.length] ++ data := by
  have length : (env.tag :: recordBytes c.code result data).length = 4 + data.length := by simp [recordBytes]; omega
  rw [s.responseUnit_eq env.seq _ front (by rw [length]; exact hfront)]
  simp [recordBytes, byte]

/-- Settles O27. -/
theorem answerIsOneRecordResponse : Obligations.AnswerIsOneRecordResponse := by
  refine ⟨fun s env c result data front _ hfront => ?_, by decide, by decide⟩
  rw [← s.responseUnit_record env c result data front hfront]
  rfl

/-! ## Device state and staging hold (R152, R154) -/

/-- Settles O28. -/
theorem deviceStateAndStagingHold : Obligations.DeviceStateAndStagingHold := by
  refine ⟨fun s env args running short => ⟨?_, ?_, ?_, fun not_one not_two => ?_⟩,
    fun s env args running short => ⟨?_, fun some => ⟨?_, ?_⟩⟩⟩
  · rintro rfl
    exact exec_row_ok (c := .setState) running short rfl
  · rintro rfl allowed
    have stays : ¬(s.management.device = .operating ∧ ¬s.allFree) := by
      rintro ⟨operating, busy⟩
      rcases allowed with standby | free
      · rw [standby] at operating; cases operating
      · exact busy (s.allFree_iff.2 free)
    exact exec_row_ok (c := .setState) running short (if_neg stays)
  · rintro rfl operating ⟨n, used⟩
    exact exec_row_refuse (c := .setState) running short
      (if_pos ⟨operating, fun free => used (s.allFree_iff.1 free n)⟩)
  · refine exec_row_refuse (c := .setState) running short ?_
    show cmdSetState args s = _
    unfold cmdSetState
    split
    · rename_i b
      have no_state : DeviceState.ofByte? b = none := by
        unfold DeviceState.ofByte?
        rw [if_neg fun one => not_one (by rw [one]), if_neg fun two => not_two (by rw [two])]
      rw [no_state]
    · rfl
  · rintro rfl
    exact ⟨exec_row_ok (c := .hold) running short rfl, exec_row_ok (c := .release) running short rfl⟩
  · exact exec_row_refuse (c := .hold) running short (if_neg some)
  · exact exec_row_refuse (c := .release) running short (if_neg some)

/-! ## IDENTIFY and RESTART (R157, R159) -/

/-- The identification fields, byte by byte. -/
theorem identification_eq (straps : Straps) :
    identification straps =
      [0x0E, 0x47, 0x01, 0x92, 1,
        BitVec.ofNat 8
          (straps.mgsel.toNat + (if straps.chainEnd then 8 else 0) + if straps.hwyRole then 16 else 0),
        192, 32, 48, 32, 6, 32, 8] := by
  have value : strapValue straps =
      straps.mgsel.toNat + (if straps.chainEnd then 8 else 0) + if straps.hwyRole then 16 else 0 := by
    unfold strapValue
    cases straps.chainEnd <;> cases straps.hwyRole <;> rfl
  rw [identification, value, natBytes16_eq, natBytes16_eq]
  rfl

/-- RESTART as the last command of its list. -/
theorem cmdRestart_last (s : State) :
    (∀ args, args ≠ [] → cmdRestart true args s = .refuse s .badArgument) ∧
      (s.management.restart.isSome = true → cmdRestart true [] s = .refuse s .badState) ∧
      (s.management.restart = none → cmdRestart true [] s = { state := s, result := .ok, data := [], restart := true }) := by
  refine ⟨fun args some => ?_, fun pending => ?_, fun none => ?_⟩
  · simp [cmdRestart, some]
  · simp [cmdRestart, pending]
  · simp [cmdRestart, none]

/-- RESTART with commands after it. -/
theorem cmdRestart_not_last (s : State) (args : List Byte) : cmdRestart false args s = .refuse s .badArgument := by
  unfold cmdRestart
  split <;> rfl

/-- A command that fits, with more behind it: its record, then the rest of the list. -/
theorem runCommands_command {turns position : Nat} {code len : Byte} {args tail : List Byte} {r : ListRun}
    (length : args.length = len.toNat) (enough : (code :: len :: (args ++ tail)).length ≤ turns)
    (fits : 1 + r.records.length + fullRecordOf code args r.state ≤ 251) :
    runCommands turns position (code :: len :: (args ++ tail)) r =
      runCommands turns (position + 1) tail (r.command code args tail.isEmpty) := by
  simp only [List.length_cons, List.length_append] at enough
  obtain ⟨k, rfl⟩ : ∃ k, turns = k + 1 := ⟨turns - 1, by omega⟩
  have first : (args ++ tail).take len.toNat = args := by rw [← length]; simp
  have rest : (args ++ tail).drop len.toNat = tail := by rw [← length]; simp
  rw [runCommands_turns k 1 (position + 1) tail _ (by omega)]
  simp only [runCommands, first, rest, Config.responseRoom]
  rw [if_neg (by simp [length]), if_neg (by omega)]

/-- Settles O29. -/
theorem identifyAndRestart : Obligations.IdentifyAndRestart := by
  refine ⟨fun s env args running short => ⟨?_, fun some => ?_⟩,
    fun s env args running short => ⟨fun some => ?_, ?_, ?_⟩,
    fun turns position len args tail r length more enough fits => ?_⟩
  · rintro rfl
    have fields : identification s.management.straps = _ := identification_eq s.management.straps
    exact exec_row_ok (c := .identify) running short (congrArg (Reply.ok s) fields)
  · exact exec_row_refuse (c := .identify) running short (if_neg some)
  · exact exec_row_refuse (c := .restart) running short ((cmdRestart_last s).1 args some)
  · rintro rfl pending
    exact exec_row_refuse (c := .restart) running short ((cmdRestart_last s).2.1 pending)
  · rintro rfl none front unit hfront hunit
    have reply : Command.run .restart true [] s = { state := s, result := .ok, data := [], restart := true } :=
      (cmdRestart_last s).2.2 none
    have sent : s.responseUnit env.seq (env.tag :: recordBytes Command.restart.code .ok []) = unit := by
      rw [s.responseUnit_record env .restart .ok [] front hfront, hunit, List.append_nil]; rfl
    have row : exec (.restart env []) s = .next (s.controlOne .restart env []) := exec_row running .restart env []
    rw [row, State.controlOne_eq s .restart env [] short, reply]
    simp only [State.respond, sent, if_true]
  · have full : fullRecordOf 0x05 args r.state = 3 := rfl
    have behind : tail.isEmpty = false := by simpa using more
    have command : r.command 0x05 args false = { r with records := r.records ++ [0x05, 0x02, 0] } := by
      have named : Command.ofCode? 0x05 = some .restart := Command.ofCode?_code .restart
      simp only [ListRun.command, named, Command.run, cmdRestart_not_last, Reply.refuse_state, Reply.refuse_result,
        Reply.refuse_data, Reply.refuse_restart, Bool.or_false]
      rfl
    rw [runCommands_command length enough (by omega), behind, command]

end Sys2Proof.Machine

/-! OPEN and CLOSE (1.4, 1.6). -/

namespace Sys2Proof.Machine

theorem gainIndex_val (n : Nat) : (gainIndex n).val = min n 31 := by
  show min n 31 % 32 = min n 31
  omega

theorem clampThreshold_word16 (hi lo : Byte) :
    clampThreshold (word16 hi lo).toNat = min (256 * hi.toNat + lo.toNat) 32767 := by
  rw [word16_toNat]; rfl

/-! ## OPEN (R7 to R10, R185) -/

theorem length_of_parseOpen {args : List Byte} {a : OpenArgs} (h : parseOpen args = some a) : args.length = 16 := by
  unfold parseOpen at h
  split at h
  · rfl
  · cases h

theorem cmdOpen_refused {args : List Byte} {s : State} {a : OpenArgs} {r : Result} (parsed : parseOpen args = some a)
    (refused : s.openRefusal a = some r) : cmdOpen args s = .refuse s r := by
  simp only [cmdOpen, parsed, refused]

theorem cmdOpen_accepted {args : List Byte} {s : State} {a : OpenArgs} (parsed : parseOpen args = some a)
    (accepted : s.openRefusal a = none) : cmdOpen args s = .ok (s.updateChannel a.context fun c => c.opened a) [] := by
  simp only [cmdOpen, parsed, accepted]

/-- Settles O30. -/
theorem openAcceptsLegalCall : Obligations.OpenAcceptsLegalCall := by
  intro s env args a running parsed accepted
  have accepts := State.accepts_of_openRefusal accepted
  have opened : (s.updateChannel a.context fun c => c.opened a).channel a.context = (s.channel a.context).opened a :=
    State.channel_updateChannel_self s _ _ accepts.context
  refine ⟨s.updateChannel a.context fun c => c.opened a,
    exec_row_ok (c := .openCall) running (by rw [length_of_parseOpen parsed]; omega)
      (cmdOpen_accepted parsed accepted), ?_⟩
  rw [opened]
  refine ⟨rfl, rfl, ⟨a.binding, rfl, a.binding_highway accepts.highway, a.binding_timeslot accepts.timeslot, rfl, rfl, rfl,
    rfl⟩, rfl, gainIndex_val _, gainIndex_val _, rfl, rfl, rfl, rfl, rfl, rfl, rfl, rfl,
    fun m hm => State.channel_updateChannel_ne s _ m _ hm, rfl, rfl, rfl, rfl, rfl, rfl, rfl, rfl, rfl⟩

theorem ModeSet.nonempty_eq_false (set : ModeSet) :
    ¬set.nonempty = true ↔ set.two = false ∧ set.three = false ∧ set.four = false := by
  simp [ModeSet.nonempty, and_assoc]

/-- Some context in use holds the highway and the timeslot. -/
theorem State.slotTaken_iff (s : State) (a : OpenArgs) :
    s.countBound (fun b => b.highway.val == a.highway && b.timeslot.val == a.timeslot) ≠ 0 ↔
      ∃ n b, (s.channel n).state ≠ .free ∧ (s.channel n).binding = some b ∧ b.highway.val = a.highway ∧
        b.timeslot.val = a.timeslot := by
  simp [State.countBound_pos]

/-- How many contexts in use hold a phase. -/
theorem State.countBound_phase (s : State) (phase : Nat) :
    s.countBound (fun b => b.phase == phase) =
      ((List.range 192).filter fun n =>
        (s.channel n).state ≠ .free ∧ (s.channel n).binding.any fun b => b.phase = phase).length := by
  rw [State.countBound_eq]
  refine congrArg List.length (List.filter_congr fun n _ => ?_)
  have same : (fun b : Binding => b.phase == phase) = fun b => decide (b.phase = phase) :=
    funext fun b => beq_eq_decide _ _
  rw [Bool.eq_iff_iff, same]
  simp

/-- The checks of OPEN, each where none before it holds. -/
theorem State.openRefusal_of {s : State} {a : OpenArgs} {state argument slot phase label : Prop}
    (hstate : state ↔ s.management.device ≠ .operating ∨ (a.context ≤ 191 ∧ (s.channel a.context).state ≠ .free))
    (hargument : argument ↔ 191 < a.context ∨ 3 < a.highway ∨ 63 < a.timeslot ∨ 159 < a.phase ∨ ¬a.allowed.nonempty = true ∨
      a.label = s.managementLabel)
    (hslot : slot ↔ s.countBound (fun b => b.highway.val == a.highway && b.timeslot.val == a.timeslot) ≠ 0)
    (hphase : phase ↔ Config.phaseShare ≤ s.countBound (fun b => b.phase == a.phase))
    (hlabel : label ↔ s.tables.lookup a.label ≠ some a.context) :
    (state → s.openRefusal a = some .badState) ∧ (¬state → argument → s.openRefusal a = some .badArgument) ∧
      (¬state → ¬argument → slot → s.openRefusal a = some .timeslotTaken) ∧
      (¬state → ¬argument → ¬slot → phase → s.openRefusal a = some .phaseFull) ∧
      (¬state → ¬argument → ¬slot → ¬phase → label → s.openRefusal a = some .labelMismatch) ∧
      (¬state → ¬argument → ¬slot → ¬phase → ¬label → s.openRefusal a = none) := by
  rw [hstate, hargument, hslot, hphase, hlabel]
  unfold State.openRefusal
  refine ⟨fun h => if_pos h, fun n1 h => ?_, fun n1 n2 h => ?_, fun n1 n2 n3 h => ?_, fun n1 n2 n3 n4 h => ?_,
    fun n1 n2 n3 n4 n5 => ?_⟩
  · rw [if_neg n1, if_pos h]
  · rw [if_neg n1, if_neg n2, if_pos h]
  · rw [if_neg n1, if_neg n2, if_neg n3, if_pos h]
  · rw [if_neg n1, if_neg n2, if_neg n3, if_neg n4, if_pos h]
  · rw [if_neg n1, if_neg n2, if_neg n3, if_neg n4, if_neg n5]

theorem Law.ofByte?_eq_none {b : Byte} (not_e : b ≠ 0) (not_b : b ≠ 1) : Law.ofByte? b = none := by
  rw [Law.ofByte?, if_neg not_e, if_neg not_b]

theorem Law.exists_ofByte? {b : Byte} (h : b = 0 ∨ b = 1) : ∃ law, Law.ofByte? b = some law ∧ (law = .e ↔ b = 0) := by
  rcases h with rfl | rfl
  · exact ⟨.e, rfl, by decide⟩
  · exact ⟨.b, rfl, by decide⟩

theorem parseOpen_of_length {args : List Byte} (h : args.length ≠ 16) : parseOpen args = none := by
  cases parsed : parseOpen args with
  | none => rfl
  | some a => exact absurd (length_of_parseOpen parsed) h

/-- Settles O31. -/
theorem openRefusesInOrder : Obligations.OpenRefusesInOrder := by
  refine ⟨fun s env args a state argument slot phase label running short =>
    ⟨fun unread => ?_, fun parsed hstate hargument hslot hphase hlabel => ?_⟩,
    fun ctx hw ts ph law l1 l0 depth allowed mode pref up down options t1 t0 args hargs =>
      ⟨fun named => ?_, fun not_e not_b => ?_, fun other h => parseOpen_of_length h⟩⟩
  · refine exec_row_refuse (c := .openCall) running short ?_
    simp only [Command.run, cmdOpen, unread]
  · have refuses {r : Result} (h : s.openRefusal a = some r) :
        exec (.openCall env args) s = .next (s.answer env .openCall r []) :=
      exec_row_refuse (c := .openCall) running short (cmdOpen_refused parsed h)
    rw [← ModeSet.nonempty_eq_false] at hargument
    rw [← State.slotTaken_iff] at hslot
    rw [← State.countBound_phase] at hphase
    obtain ⟨c1, c2, c3, c4, c5, c6⟩ := State.openRefusal_of hstate hargument hslot hphase hlabel
    exact ⟨fun h => refuses (c1 h), fun n1 h => refuses (c2 n1 h), fun n1 n2 h => refuses (c3 n1 n2 h),
      fun n1 n2 n3 h => refuses (c4 n1 n2 n3 h), fun n1 n2 n3 n4 h => refuses (c5 n1 n2 n3 n4 h), c6⟩
  · obtain ⟨l, hl, e⟩ := Law.exists_ofByte? named
    subst hargs
    exact ⟨_, congrArg (Option.map _) hl, rfl, rfl, rfl, rfl, e, word16_toNat l1 l0, rfl, rfl, rfl, rfl, rfl, rfl, rfl, rfl,
      rfl, rfl, word16_toNat t1 t0⟩
  · subst hargs
    exact congrArg (Option.map _) (Law.ofByte?_eq_none not_e not_b)

/-! ## CLOSE (R14) -/

theorem cmdClose_of_length {args : List Byte} (h : args.length ≠ 1) (s : State) :
    cmdClose args s = .refuse s .badArgument := by
  unfold cmdClose
  split
  · exact absurd rfl h
  · rfl

/-- CLOSE of a context there is, by its state. -/
theorem cmdClose_of_context {s : State} {b : Byte} (context : b.toNat ≤ 191) :
    ((s.channel b.toNat).state = .free → cmdClose [b] s = .refuse s .badState) ∧
      ((s.channel b.toNat).state = .opened →
        cmdClose [b] s = .ok (s.updateChannel b.toNat fun c => { c with state := .closing }) []) ∧
      ((s.channel b.toNat).state = .closing → cmdClose [b] s = .ok s []) := by
  have in_range : ¬191 < b.toNat := by omega
  refine ⟨fun h => ?_, fun h => ?_, fun h => ?_⟩ <;> simp only [cmdClose, if_neg in_range, h]

/-- Settles O33. -/
theorem closeBeginsClosing : Obligations.CloseBeginsClosing := by
  refine fun s env args running short => ⟨fun length => ?_, ?_⟩
  · exact exec_row_refuse (c := .close) running short (cmdClose_of_length length s)
  · rintro b rfl
    refine ⟨fun out => ?_, fun context free => ?_, fun context opened => ?_, fun context closing => ?_⟩
    · exact exec_row_refuse (c := .close) running short (if_pos out)
    · exact exec_row_refuse (c := .close) running short ((cmdClose_of_context context).1 free)
    · exact exec_row_ok (c := .close) running short ((cmdClose_of_context context).2.1 opened)
    · exact exec_row_ok (c := .close) running short ((cmdClose_of_context context).2.2 closing)

end Sys2Proof.Machine

/-! MODIFY and CONTEXT REPORT (1.5, 10.4). -/

namespace Sys2Proof.Machine

/-! ## MODIFY (R12, R13, R185) -/

/-- Parts that came replace parts that waited. -/
theorem PendingRecord.merge_eq (p new : PendingRecord) :
    p.merge new =
      { allowed := new.allowed.or p.allowed, target := new.target.or p.target,
        preference := new.preference.or p.preference, uplinkGain := new.uplinkGain.or p.uplinkGain,
        downlinkGain := new.downlinkGain.or p.downlinkGain, followRequests := new.followRequests.or p.followRequests,
        suppression := new.suppression.or p.suppression, threshold := new.threshold.or p.threshold } := by
  simp [PendingRecord.merge]

/-- How many of the flags below number `i` are set: the place of field `i` of MODIFY. -/
def modifyPlace (flags : Byte) (i : Nat) : Nat :=
  ((List.range i).filter fun j => flags.getLsbD j).length

theorem modifyPlace_succ (flags : Byte) (i : Nat) :
    modifyPlace flags (i + 1) = modifyPlace flags i + (flags.getLsbD i).toNat := by
  unfold modifyPlace
  rw [List.range_succ, List.filter_append, List.length_append]
  cases h : flags.getLsbD i <;> simp [h]

/-- Field `i` of MODIFY; none where its flag is clear. -/
def modifyField (flags : Byte) (fields : List Byte) (i : Nat) : Option Byte :=
  if flags.getLsbD i then fields[modifyPlace flags i]? else none

theorem modifyField_clear {flags : Byte} {i : Nat} (clear : flags.getLsbD i = false) (fields : List Byte) :
    modifyField flags fields i = none := by
  simp [modifyField, clear]

theorem modifyField_set {flags : Byte} {i : Nat} (set : flags.getLsbD i = true) (fields : List Byte) :
    modifyField flags fields i = fields[modifyPlace flags i]? := by
  simp [modifyField, set]

/-- A field is taken off the fields behind those of the flags below it. -/
theorem takeField_drop (flags : Byte) (fields : List Byte) (i : Nat) :
    takeField (flags.getLsbD i) (fields.drop (modifyPlace flags i)) =
      (modifyField flags fields i, fields.drop (modifyPlace flags (i + 1))) := by
  rw [modifyPlace_succ]
  cases set : flags.getLsbD i with
  | true => simp [takeField, modifyField_set set, List.drop_drop]
  | false => simp [takeField, modifyField_clear set]

/-- The two-byte field of flag 7. -/
def modifyThreshold (flags : Byte) (fields : List Byte) : Option Nat :=
  match flags.getLsbD 7, fields.drop (modifyPlace flags 7) with
  | true, [t1, t0] => some (clampThreshold (word16 t1 t0).toNat)
  | _, _ => none

/-- Each part of MODIFY comes from its own field. -/
theorem modifyParts_eq (flags : Byte) (fields : List Byte) :
    modifyParts flags fields =
      { allowed := (modifyField flags fields 0).map ModeSet.ofByte,
        target := (modifyField flags fields 1).map fun b => Mode.clamp b.toNat,
        preference := (modifyField flags fields 2).map fun b => preferenceOf b.toNat,
        uplinkGain := (modifyField flags fields 3).map fun b => gainIndex b.toNat,
        downlinkGain := (modifyField flags fields 4).map fun b => gainIndex b.toNat,
        followRequests := (modifyField flags fields 5).map fun b => b.getLsbD 0,
        suppression := (modifyField flags fields 6).map fun b => b.getLsbD 0,
        threshold := modifyThreshold flags fields } := by
  have f0 : takeField (flags.getLsbD 0) fields = _ := takeField_drop flags fields 0
  have f1 : takeField (flags.getLsbD 1) (fields.drop (modifyPlace flags (0 + 1))) = _ := takeField_drop flags fields 1
  have f2 : takeField (flags.getLsbD 2) (fields.drop (modifyPlace flags (1 + 1))) = _ := takeField_drop flags fields 2
  have f3 : takeField (flags.getLsbD 3) (fields.drop (modifyPlace flags (2 + 1))) = _ := takeField_drop flags fields 3
  have f4 : takeField (flags.getLsbD 4) (fields.drop (modifyPlace flags (3 + 1))) = _ := takeField_drop flags fields 4
  have f5 : takeField (flags.getLsbD 5) (fields.drop (modifyPlace flags (4 + 1))) = _ := takeField_drop flags fields 5
  have f6 : takeField (flags.getLsbD 6) (fields.drop (modifyPlace flags (5 + 1))) = _ := takeField_drop flags fields 6
  simp only [modifyParts, f0, f1, f2, f3, f4, f5, f6]
  rfl

theorem parseModify_eq (ctx flags : Byte) (fields : List Byte) :
    parseModify (ctx :: flags :: fields) =
      if fields.length = modifyPlace flags 7 + (if flags.getLsbD 7 then 2 else 0) then
        some { context := ctx.toNat, parts := modifyParts flags fields }
      else none :=
  rfl

/-- The threshold of fields whose length is right. -/
theorem modifyThreshold_set {flags hi lo : Byte} {fields : List Byte} (set : flags.getLsbD 7 = true)
    (length : fields.length = modifyPlace flags 7 + 2) (first : fields[modifyPlace flags 7]? = some hi)
    (second : fields[modifyPlace flags 7 + 1]? = some lo) :
    modifyThreshold flags fields = some (min (256 * hi.toNat + lo.toNat) 32767) := by
  have two : fields.drop (modifyPlace flags 7) = [hi, lo] := by
    refine List.ext_getElem? fun i => ?_
    rw [List.getElem?_drop]
    match i with
    | 0 => exact first
    | 1 => exact second
    | i + 2 => rw [List.getElem?_eq_none (by omega)]; rfl
  simp only [modifyThreshold, set, two, clampThreshold_word16]

theorem modifyThreshold_clear {flags : Byte} (clear : flags.getLsbD 7 = false) (fields : List Byte) :
    modifyThreshold flags fields = none := by
  simp only [modifyThreshold, clear]

/-- The part of a set flag, made of its field. -/
theorem modifyField_map {α : Type} {flags b : Byte} {fields : List Byte} {i : Nat} (f : Byte → α)
    (set : flags.getLsbD i = true) (field : fields[modifyPlace flags i]? = some b) :
    (modifyField flags fields i).map f = some (f b) := by
  rw [modifyField_set set, field, Option.map_some]

/-- A set no member of which MODIFY may leave (R13). -/
theorem anyEmpty_iff (allowed : Option ModeSet) :
    allowed.any (fun set => !set.nonempty) = true ↔
      ∃ set, allowed = some set ∧ set.two = false ∧ set.three = false ∧ set.four = false := by
  rw [Option.any_eq_true]
  refine exists_congr fun set => and_congr_right fun _ => ?_
  rw [← ModeSet.nonempty_eq_false]
  simp

/-- Settles O32: the refusals and the merge, then the fields. -/
theorem modifyFillsPendingRecord : Obligations.ModifyFillsPendingRecord := by
  refine ⟨fun s env args running short => ⟨fun unread => ?_, fun m empty parsed hempty => ?_⟩,
    fun ctx allowed target pref up down follow suppression t1 t0 => ?_, fun ctx => rfl, fun ctx target t1 t0 => ?_,
    fun ctx flags fields place hplace length => ?_, fun ctx flags fields length => ?_⟩
  · refine exec_row_refuse (c := .modify) running short ?_
    simp only [Command.run, cmdModify, unread]
  · rw [← anyEmpty_iff] at hempty
    have reply : cmdModify args s =
        if 191 < m.context then .refuse s .badArgument
        else if (s.channel m.context).state ≠ .opened then .refuse s .badState
        else if m.parts.allowed.any (fun set => !set.nonempty) then .refuse s .badArgument
        else .ok (s.updateChannel m.context fun c => { c with waiting := c.waiting.merge m.parts }) [] := by
      simp only [cmdModify, parsed]
    refine ⟨fun out => ?_, fun context closed => ?_, fun context opened none => ?_, fun context opened some => ?_⟩
    · exact exec_row_refuse (c := .modify) running short (reply.trans (if_pos out))
    · refine exec_row_refuse (c := .modify) running short (reply.trans ?_)
      rw [if_neg (by omega), if_pos closed]
    · refine exec_row_refuse (c := .modify) running short (reply.trans ?_)
      rw [if_neg (by omega), if_neg (by simp [opened]), if_pos (hempty.1 none)]
    · refine exec_row_ok (c := .modify) running short (reply.trans ?_)
      rw [if_neg (by omega), if_neg (by simp [opened]), if_neg (mt hempty.2 some)]
      simp only [PendingRecord.merge_eq]
  · exact ⟨_, rfl, rfl, rfl, rfl, rfl, congrArg some (gainIndex_val _), congrArg some (gainIndex_val _), rfl, rfl,
      congrArg some (clampThreshold_word16 t1 t0)⟩
  · rw [← clampThreshold_word16]
    rfl
  · obtain rfl : place = modifyPlace flags := funext hplace
    refine ⟨{ context := ctx.toNat, parts := modifyParts flags fields }, (parseModify_eq ctx flags fields).trans (if_pos length),
      rfl, ?_⟩
    rw [modifyParts_eq]
    refine ⟨fun c => by rw [modifyField_clear c]; rfl, fun c => by rw [modifyField_clear c]; rfl,
      fun c => by rw [modifyField_clear c]; rfl, fun c => by rw [modifyField_clear c]; rfl,
      fun c => by rw [modifyField_clear c]; rfl, fun c => by rw [modifyField_clear c]; rfl,
      fun c => by rw [modifyField_clear c]; rfl, fun c => modifyThreshold_clear c fields, fun b => ?_⟩
    have gain (i : Nat) (set : flags.getLsbD i = true) (field : fields[modifyPlace flags i]? = some b) :
        ((modifyField flags fields i).map fun b => gainIndex b.toNat).map Fin.val = some (min b.toNat 31) := by
      rw [modifyField_map _ set field, Option.map_some, gainIndex_val]
    refine ⟨modifyField_map ModeSet.ofByte, modifyField_map fun b => Mode.clamp b.toNat,
      modifyField_map fun b => preferenceOf b.toNat, gain 3, gain 4, modifyField_map fun b => b.getLsbD 0,
      modifyField_map fun b => b.getLsbD 0, fun low set first second => ?_⟩
    rw [if_pos set] at length
    exact modifyThreshold_set set length first second
  · exact (parseModify_eq ctx flags fields).trans (if_neg length)

/-! ## CONTEXT REPORT (R179, R186) -/

theorem cmdContextReport_of_length {args : List Byte} (h : args.length ≠ 1) (s : State) :
    cmdContextReport args s = .refuse s .badArgument := by
  unfold cmdContextReport
  split
  · exact absurd rfl h
  · rfl

/-- The report fields, byte by byte. -/
theorem Channel.report_eq (c : Channel) (used : c.state ≠ .free) :
    c.report =
      [if c.state = .opened then 1 else 2,
          match c.playout.state with | .priming => 0 | .playing => 1 | .silent => 2,
          if c.playout.health.health = .present then 1 else 0,
          BitVec.ofNat 8 c.applied.mode.width, BitVec.ofNat 8 c.applied.target.width, c.waiting.presence,
          BitVec.ofNat 8 c.playout.queue.length, c.playout.nextSeq,
          BitVec.ofNat 8 c.playout.lastQuality.toNat, BitVec.ofNat 8 c.playout.minQuality.toNat] ++
        c.counters.toList.flatMap fun k => [BitVec.ofNat 8 (k / 256), BitVec.ofNat 8 k] := by
  have state : c.state.toByte = if c.state = .opened then 1 else 2 := by
    cases h : c.state with
    | free => exact absurd h used
    | opened => rfl
    | closing => rfl
  have playout : c.playout.state.toByte = match c.playout.state with | .priming => 0 | .playing => 1 | .silent => 2 := by
    cases c.playout.state <;> rfl
  have health : c.playout.health.health.toByte = if c.playout.health.health = .present then 1 else 0 := by
    cases c.playout.health.health <;> rfl
  have counters : (natBytes16 : Nat → List Byte) = fun k => [BitVec.ofNat 8 (k / 256), BitVec.ofNat 8 k] :=
    funext natBytes16_eq
  have quality (q : BitVec 4) : q.setWidth 8 = BitVec.ofNat 8 q.toNat := (BitVec.ofNat_toNat 8 q).symm
  rw [Channel.report, state, playout, health, counters, quality, quality]
  rfl

/-- The bits of a number given as the sum of eight of them. -/
theorem byte_bits (b0 b1 b2 b3 b4 b5 b6 b7 : Bool) :
    let w := byte (b0.toNat + 2 * b1.toNat + 4 * b2.toNat + 8 * b3.toNat + 16 * b4.toNat + 32 * b5.toNat + 64 * b6.toNat +
      128 * b7.toNat)
    w.getLsbD 0 = b0 ∧ w.getLsbD 1 = b1 ∧ w.getLsbD 2 = b2 ∧ w.getLsbD 3 = b3 ∧ w.getLsbD 4 = b4 ∧ w.getLsbD 5 = b5 ∧
      w.getLsbD 6 = b6 ∧ w.getLsbD 7 = b7 := by
  revert b0 b1 b2 b3 b4 b5 b6 b7; decide

/-- Settles O34. -/
theorem contextReportReadsAndClears : Obligations.ContextReportReadsAndClears := by
  refine ⟨fun s env args running short => ⟨fun length => ?_, ?_⟩, fun p => byte_bits _ _ _ _ _ _ _ _⟩
  · exact exec_row_refuse (c := .contextReport) running short (cmdContextReport_of_length length s)
  · rintro b c rfl rfl
    refine ⟨fun out => ?_, fun context free => ?_, fun context used => ⟨ContextCounters.zero, rfl, ?_⟩⟩
    · exact exec_row_refuse (c := .contextReport) running short (if_pos out)
    · refine exec_row_refuse (c := .contextReport) running short ?_
      simp only [Command.run, cmdContextReport, if_neg (show ¬191 < b.toNat by omega), if_pos free]
    · have reply : cmdContextReport [b] s =
          .ok
            (s.updateChannel b.toNat fun c =>
              { c with counters := ContextCounters.zero, playout := { c.playout with minQuality := 15 } })
            (s.channel b.toNat).report := by
        simp only [cmdContextReport, if_neg (show ¬191 < b.toNat by omega), if_neg used]
      rw [Channel.report_eq _ used] at reply
      exact exec_row_ok (c := .contextReport) running short reply

end Sys2Proof.Machine

/-! The table reads, the status and trace commands (9.4, 10.1, 10.3, 10.5). -/

namespace Sys2Proof.Machine

/-! ## Table reads (R171, R188) -/

theorem readTableArgs?_of {number start count : Byte} {id : TableId} (named : TableId.ofByte? number = some id) :
    readTableArgs? number start count =
      if start.toNat < id.size ∧ count ≠ 0 then some (id, start.toNat, count.toNat) else none := by
  simp only [readTableArgs?, named]

/-- A read that starts inside the table, or at its end. -/
theorem State.readFrom_eq {s : State} {id : TableId} {start : Nat} (inside : start ≤ id.size) (count : Nat) :
    s.readFrom id start count =
      .ok (s.withCursor id (min id.size (start + count)))
        ((List.range (min count (id.size - start))).flatMap fun k => s.tables.entryBytes id (start + k)) := by
  have index : start + readCount id start count = min id.size (start + count) := by unfold readCount; omega
  simp only [State.readFrom, index]
  rfl

theorem cmdReadTable_of_length {args : List Byte} (h : args.length ≠ 3) (s : State) :
    cmdReadTable args s = .refuse s .badArgument := by
  unfold cmdReadTable
  split
  · exact absurd rfl h
  · rfl

theorem cmdReadTable_of_unread {number start count : Byte} (h : readTableArgs? number start count = none) (s : State) :
    cmdReadTable [number, start, count] s = .refuse s .badArgument := by
  simp only [cmdReadTable, h]

theorem cmdReadNext_of_length {args : List Byte} (h : args.length ≠ 1) (s : State) :
    cmdReadNext args s = .refuse s .badArgument := by
  unfold cmdReadNext
  split
  · exact absurd rfl h
  · rfl

/-- Settles O39. -/
theorem tableReadsReturnEntries : Obligations.TableReadsReturnEntries := by
  refine ⟨fun s env number start count id running named =>
      ⟨fun inside some => ?_, fun bad => ?_, fun table inside some => ?_, ?_⟩,
    fun s env args running short => ⟨fun bad => ?_, fun length => ?_⟩, fun t => ⟨fun i => ?_, fun i => ?_, fun i => ?_,
      fun i => ?_, fun i => ?_⟩⟩
  · have reply : cmdReadTable [number, start, count] s = s.readFrom id start.toNat count.toNat := by
      simp only [cmdReadTable, readTableArgs?_of named, if_pos (And.intro inside some)]
    exact exec_row_ok (c := .readTable) running (by simp) (reply.trans (State.readFrom_eq inside.le _))
  · refine exec_row_refuse (c := .readTable) running (by simp) (cmdReadTable_of_unread ?_ s)
    rw [readTableArgs?_of named, if_neg fun ⟨inside, counts⟩ => bad.elim (fun out => absurd inside (by omega)) counts]
  · subst table
    exact exec_row_ok (c := .readNext) running (by simp) ((if_neg some).trans (State.readFrom_eq inside _))
  · exact exec_row_refuse (c := .readNext) (args := [0]) running (by simp) rfl
  · refine exec_row_refuse (c := .readTable) running short ?_
    by_cases length : args.length = 3
    · obtain ⟨t, head, unnamed⟩ := bad.resolve_left (fun h => h length)
      obtain ⟨number, start, count, rfl⟩ := List.length_eq_three.1 length
      obtain rfl : number = t := by simpa using head
      exact cmdReadTable_of_unread (by simp only [readTableArgs?, unnamed]) s
    · exact cmdReadTable_of_length length s
  · exact exec_row_refuse (c := .readNext) running short (cmdReadNext_of_length length s)
  · simp [Tables.entryBytes, natBytes16_eq]
  · simp [Tables.entryBytes, natBytes16_eq]
  · simp [Tables.entryBytes, natBytes16_eq]
  · simp [Tables.entryBytes, Window.toBytes, bytes16_eq, byte]
  · simp [Tables.entryBytes, Tables.setting, byte]

/-! ## READ STATUS (R177, R186) -/

theorem mul_toNat_eq (k : Nat) (b : Bool) : k * b.toNat = if b then k else 0 := by
  cases b <;> simp

theorem lockByte_eq (highways : Vector Highway 4) :
    lockByte highways =
      BitVec.ofNat 8
        ((if highways[0].locked then 1 else 0) + (if highways[1].locked then 2 else 0) +
          (if highways[2].locked then 4 else 0) + if highways[3].locked then 8 else 0) := by
  have one (b : Bool) : b.toNat = if b then 1 else 0 := by cases b <;> rfl
  rw [lockByte, mul_toNat_eq, mul_toNat_eq, mul_toNat_eq, one]
  rfl

/-- The status fields, byte by byte. -/
theorem State.statusData_eq {s : State} (running : s.running) :
    s.statusData =
      [if s.management.device = .standby then 1 else 2, if s.stagingHold then 1 else 0,
          BitVec.ofNat 8
            ((if s.highway.highways[0].locked then 1 else 0) + (if s.highway.highways[1].locked then 2 else 0) +
              (if s.highway.highways[2].locked then 4 else 0) + if s.highway.highways[3].locked then 8 else 0),
          if s.tables.setting 0 = 1 ∧ s.referenceHighway.locked = false then 1 else 0,
          match s.trace with
          | .idle _ aborted => if aborted then 0x80 else 0
          | .armed _ => 1
          | .filled _ _ => 2,
          s.status.flags, s.status.mask] ++
        s.status.counters.toList.flatMap fun k => [BitVec.ofNat 8 (k / 256), BitVec.ofNat 8 k] := by
  have device : s.management.device.toByte = if s.management.device = .standby then 1 else 2 := by
    cases h : s.management.device with
    | reset => exact absurd h running
    | standby => rfl
    | operating => rfl
  have holdover : boolByte s.inHoldover =
      if s.tables.setting 0 = 1 ∧ s.referenceHighway.locked = false then 1 else 0 := by
    simp only [boolByte, State.inHoldover, Bool.and_eq_true, Tables.slave_iff, Bool.not_eq_true']
  have trace : s.trace.toByte =
      match s.trace with
      | .idle _ aborted => if aborted then 0x80 else 0
      | .armed _ => 1
      | .filled _ _ => 2 := by
    cases s.trace <;> rfl
  have counters : (natBytes16 : Nat → List Byte) = fun k => [BitVec.ofNat 8 (k / 256), BitVec.ofNat 8 k] :=
    funext natBytes16_eq
  rw [State.statusData, device, holdover, lockByte_eq, trace, counters]
  rfl

/-- Settles O40. -/
theorem readStatusReadsAndClears : Obligations.ReadStatusReadsAndClears := by
  refine fun s env args running short => ⟨?_, fun some => exec_row_refuse (c := .readStatus) running short (if_neg some)⟩
  rintro rfl
  have answered := exec_row_ok (c := .readStatus) (env := env) running short
    (rfl : cmdReadStatus [] s = .ok (s.count fun _ => DeviceCounters.zero) s.statusData)
  rw [State.statusData_eq running] at answered
  exact ⟨DeviceCounters.zero, rfl, answered⟩

/-! ## Flags and mask (R173, R174, R178) -/

theorem State.raise_eq (s : State) (f : Flag) :
    s.raise f =
      { s with
        status :=
          { s.status with flags := (s.raise f).status.flags, noticeWanted := (s.raise f).status.noticeWanted } } := by
  simp only [State.raise, Status.raise]
  split <;> rfl

/-- Settles O41. -/
theorem flagsMaskAndNoticeWanted : Obligations.FlagsMaskAndNoticeWanted := by
  refine ⟨fun s env args running short => ⟨?_, fun length => ⟨?_, ?_⟩⟩, fun s f => ⟨fun k => ?_, ?_, s.raise_eq f⟩⟩
  · rintro b rfl
    refine ⟨⟨s.status.flags &&& ~~~b, fun k => ?_, exec_row_ok (c := .clearFlags) running short rfl⟩,
      exec_row_ok (c := .setNoticeMask) running short rfl⟩
    by_cases hk : k < 8
    · simp [hk]
    · simp [BitVec.getLsbD_of_ge _ k (by omega : 8 ≤ k)]
  · refine exec_row_refuse (c := .clearFlags) running short (?_ : cmdClearFlags args s = _)
    unfold cmdClearFlags
    split
    · exact absurd rfl length
    · rfl
  · refine exec_row_refuse (c := .setNoticeMask) running short (?_ : cmdSetNoticeMask args s = _)
    unfold cmdSetNoticeMask
    split
    · exact absurd rfl length
    · rfl
  · exact s.status.raise_flag f k
  · rw [State.raise_status, Status.raise_noticeWanted]
    simp

/-! ## The trace (R180, R182) -/

theorem TracePoint.ofByte?_eq {b : Byte} :
    TracePoint.ofByte? b = if b = 1 ∨ b = 2 then some (if b = 1 then .uplink else .downlink) else none := by
  unfold TracePoint.ofByte?
  by_cases one : b = 1
  · subst one; rfl
  · by_cases two : b = 2
    · subst two; rfl
    · rw [if_neg one, if_neg two, if_neg (not_or_intro one two)]

theorem cmdTraceArm_unnamed {point : Byte} (unnamed : ¬(point = 1 ∨ point = 2)) (ctx : Byte) (s : State) :
    cmdTraceArm [ctx, point] s = .refuse s .badArgument := by
  simp only [cmdTraceArm, TracePoint.ofByte?_eq, if_neg unnamed]

/-- TRACE ARM of a point there is. -/
theorem cmdTraceArm_named {point : Byte} (named : point = 1 ∨ point = 2) (ctx : Byte) (s : State) :
    cmdTraceArm [ctx, point] s =
      if 191 < ctx.toNat then .refuse s .badArgument
      else if (s.channel ctx.toNat).state ≠ .opened then .refuse s .badState
      else
        .ok
          { s with
            trace :=
              .armed
                { context := ctx.toNat, point := if point = 1 then .uplink else .downlink,
                  generation := (s.channel ctx.toNat).generation } }
          [] := by
  simp only [cmdTraceArm, TracePoint.ofByte?_eq, if_pos named]

theorem TracePoint.toByte_eq (p : TracePoint) : p.toByte = if p = .uplink then 1 else 2 := by
  cases p <;> rfl

theorem traceIndications_eq (offset count : Nat) :
    traceIndications offset count = (if offset = 0 then 1 else 0) + (if offset + count = 160 then 2 else 0) := by
  unfold traceIndications
  split <;> split <;> rfl

theorem traceCount?_eq (offset count : Byte) :
    traceCount? offset count =
      if 159 < offset.toNat ∨ count = 0 then none else some (min (min count.toNat 48) (160 - offset.toNat)) :=
  rfl

/-- The data of a TRACE READ, byte by byte. -/
theorem traceData_eq (a : Arming) (samples : List Int) (offset count : Nat) :
    traceData a samples offset count =
      [(if offset = 0 then 1 else 0) + (if offset + count = 160 then 2 else 0), BitVec.ofNat 8 a.context,
          if a.point = .uplink then 1 else 2, a.generation] ++
        ((samples.drop offset).take count).flatMap fun x => [BitVec.ofInt 8 (x / 256), BitVec.ofInt 8 x] := by
  have sample : intBytes16 = fun x => [BitVec.ofInt 8 (x / 256), BitVec.ofInt 8 x] := funext intBytes16_eq
  rw [traceData, traceIndications_eq, TracePoint.toByte_eq, sample]
  rfl

/-- Settles O42. -/
theorem traceCommands : Obligations.TraceCommands := by
  refine ⟨fun s env args running short => ⟨fun length => ?_, ?_⟩, fun s env args running short => ⟨fun length => ?_, ?_⟩⟩
  · refine exec_row_refuse (c := .traceArm) running short (?_ : cmdTraceArm args s = _)
    unfold cmdTraceArm
    split
    · exact absurd rfl length
    · rfl
  · rintro ctx point rfl
    refine ⟨fun not_up not_down => ?_, fun out => ?_, fun named context closed => ?_, fun named context opened => ?_⟩
    · exact exec_row_refuse (c := .traceArm) running short (cmdTraceArm_unnamed (not_or_intro not_up not_down) ctx s)
    · by_cases named : point = 1 ∨ point = 2
      · exact exec_row_refuse (c := .traceArm) running short ((cmdTraceArm_named named ctx s).trans (if_pos out))
      · exact exec_row_refuse (c := .traceArm) running short (cmdTraceArm_unnamed named ctx s)
    · refine exec_row_refuse (c := .traceArm) running short ((cmdTraceArm_named named ctx s).trans ?_)
      rw [if_neg (by omega), if_pos closed]
    · refine exec_row_ok (c := .traceArm) running short ((cmdTraceArm_named named ctx s).trans ?_)
      rw [if_neg (by omega), if_neg (by simp [opened])]
  · refine exec_row_refuse (c := .traceRead) running short (?_ : cmdTraceRead args s = _)
    unfold cmdTraceRead
    split
    · exact absurd rfl length
    · rfl
  · rintro offset count n rfl hn
    refine ⟨fun out => ?_, fun inside some unfilled => ?_, fun a samples inside some filled => ?_⟩
    · refine exec_row_refuse (c := .traceRead) running short (?_ : cmdTraceRead [offset, count] s = _)
      simp only [cmdTraceRead, traceCount?_eq, if_pos out]
    all_goals
      have counted : traceCount? offset count = Option.some n := by
        rw [traceCount?_eq, hn, if_neg fun out => out.elim (fun h => by omega) some]
    · refine exec_row_refuse (c := .traceRead) running short (?_ : cmdTraceRead [offset, count] s = _)
      cases trace : s.trace with
      | filled a samples => exact absurd trace (unfilled a samples)
      | idle last aborted => simp only [cmdTraceRead, counted, trace]
      | armed a => simp only [cmdTraceRead, counted, trace]
    · refine exec_row_ok (c := .traceRead) running short (?_ : cmdTraceRead [offset, count] s = _)
      simp only [cmdTraceRead, counted, filled, traceData_eq]

end Sys2Proof.Machine

/-! The walk of a command list, and the full records of the response space (9.1, 9.2). -/

namespace Sys2Proof.Machine

/-! ## Full records (R164) -/

theorem Command.ofCode?_eq_none {code : Byte} (unknown : ∀ c : Command, c.code ≠ code) : Command.ofCode? code = none := by
  cases h : Command.ofCode? code with
  | none => rfl
  | some c => exact absurd (Command.ofCode?_eq_some.1 h) (unknown c)

theorem fullRecordOf_code (c : Command) (args : List Byte) (s : State) :
    fullRecordOf c.code args s = c.fullRecord args s := by
  rw [fullRecordOf, Command.ofCode?_code]

theorem fullRecordOf_unknown {code : Byte} (unknown : ∀ c : Command, c.code ≠ code) (args : List Byte) (s : State) :
    fullRecordOf code args s = 3 := by
  rw [fullRecordOf, Command.ofCode?_eq_none unknown]

/-- The full record of READ TABLE, TRACE READ, where arguments are missing. -/
theorem fullRecord_readTable_short {args : List Byte} (h : args.length < 3) (s : State) :
    Command.readTable.fullRecord args s = 3 := by
  unfold Command.fullRecord
  dsimp only
  split
  · simp only [List.length_cons] at h; omega
  · rfl

theorem fullRecord_traceRead_short {args : List Byte} (h : args.length < 2) (s : State) :
    Command.traceRead.fullRecord args s = 3 := by
  unfold Command.fullRecord
  dsimp only
  split
  · simp only [List.length_cons] at h; omega
  · rfl

section FullRecord

variable {number start count : Byte} (args : List Byte) (s : State)

theorem fullRecord_readTable {id : TableId} (named : TableId.ofByte? number = some id) (inside : start.toNat < id.size)
    (counts : count ≠ 0) :
    Command.readTable.fullRecord (number :: start :: count :: args) s =
      3 + min count.toNat (id.size - start.toNat) * id.entryLength := by
  have read : readTableArgs? number start count = some (id, start.toNat, count.toNat) :=
    (readTableArgs?_of named).trans (if_pos ⟨inside, counts⟩)
  simp only [Command.fullRecord, read]
  rfl

theorem fullRecord_readTable_unread (unread : readTableArgs? number start count = none) :
    Command.readTable.fullRecord (number :: start :: count :: args) s = 3 := by
  simp only [Command.fullRecord, unread]

theorem fullRecord_traceRead (offset count : Byte) :
    Command.traceRead.fullRecord (offset :: count :: args) s =
      if 159 < offset.toNat ∨ count = 0 then 3 else 7 + 2 * min (min count.toNat 48) (160 - offset.toNat) := by
  by_cases out : 159 < offset.toNat ∨ count = 0
  · simp only [Command.fullRecord, traceCount?_eq, if_pos out]
  · simp only [Command.fullRecord, traceCount?_eq, if_neg out]

end FullRecord

/-! ## One turn of the walk (R161 to R165) -/

section Walk

variable {turns position : Nat} {code len : Byte} {rest args tail : List Byte} {r : ListRun}

/-- A code without a length ends the list. -/
theorem runCommands_single (enough : 1 ≤ turns) : runCommands turns position [code] r = r.endMalformed code := by
  obtain ⟨k, rfl⟩ : ∃ k, turns = k + 1 := ⟨turns - 1, by omega⟩
  rfl

/-- A length that passes the end ends the list. -/
theorem runCommands_malformed (enough : (code :: len :: rest).length ≤ turns) (short : rest.length < len.toNat) :
    runCommands turns position (code :: len :: rest) r = r.endMalformed code := by
  simp only [List.length_cons] at enough
  obtain ⟨k, rfl⟩ : ∃ k, turns = k + 1 := ⟨turns - 1, by omega⟩
  simp only [runCommands, if_pos short]

/-- A record that does not fit ends the list. -/
theorem runCommands_truncated (enough : (code :: len :: (args ++ tail)).length ≤ turns) (length : args.length = len.toNat)
    (full : 251 < 1 + r.records.length + fullRecordOf code args r.state) :
    runCommands turns position (code :: len :: (args ++ tail)) r = r.endTruncated code position := by
  simp only [List.length_cons, List.length_append] at enough
  obtain ⟨k, rfl⟩ : ∃ k, turns = k + 1 := ⟨turns - 1, by omega⟩
  have first : (args ++ tail).take len.toNat = args := by rw [← length]; simp
  simp only [runCommands, first, Config.responseRoom]
  rw [if_neg (by simp [length]), if_pos full]

end Walk

/-- The record of a code that names no command. -/
theorem ListRun.command_unknown {code : Byte} (unknown : ∀ c : Command, c.code ≠ code) (r : ListRun) (args : List Byte)
    (last : Bool) : r.command code args last = { r with records := r.records ++ [code, 0x09, 0] } := by
  simp only [ListRun.command, Command.ofCode?_eq_none unknown]
  rfl

/-- The record of a command's own reply. -/
theorem ListRun.command_known (r : ListRun) (c : Command) (args : List Byte) (last : Bool) :
    r.command c.code args last =
      { state := (c.run last args r.state).state,
        records :=
          r.records ++
            [c.code, (c.run last args r.state).result.code, BitVec.ofNat 8 (c.run last args r.state).data.length] ++
            (c.run last args r.state).data,
        restart := r.restart || (c.run last args r.state).restart } := by
  simp only [ListRun.command, Command.ofCode?_code, recordBytes, List.append_assoc]
  rfl

/-- Settles O43: the list, the full records, and the turns of the walk. -/
theorem commandListIsWalkedInOrder : Obligations.CommandListIsWalkedInOrder := by
  refine ⟨fun s seq => rfl, fun s seq tag list r hr => by rw [hr]; rfl, fun s args => ?records, by decide,
    fun turns position r => ⟨runCommands_nil turns position r, fun code enough => runCommands_single enough,
      fun code len rest args tail enough => ⟨fun short => runCommands_malformed enough short, ?turn⟩⟩⟩
  case records =>
    refine ⟨rfl, rfl, rfl, ?_, ?_, fun code unknown => fullRecordOf_unknown unknown args s, fun short => ?_, rfl,
      fun short => ?_, fun b0 b1 b2 => ⟨fun id named => ⟨fun inside counts => ?_, fun bad => ?_⟩, fun unnamed => ?_, rfl,
        fun inside counts => ?_, fun bad => ?_⟩⟩
    · simp only [List.mem_cons, List.not_mem_nil, or_false]
      rintro code (rfl | rfl) <;> rfl
    · simp only [List.mem_cons, List.not_mem_nil, or_false]
      rintro code (rfl | rfl | rfl | rfl | rfl | rfl | rfl | rfl | rfl | rfl) <;> rfl
    · exact (fullRecordOf_code .readTable args s).trans (fullRecord_readTable_short short s)
    · exact (fullRecordOf_code .traceRead args s).trans (fullRecord_traceRead_short short s)
    · exact (fullRecordOf_code .readTable _ s).trans (fullRecord_readTable args s named inside counts)
    · refine (fullRecordOf_code .readTable _ s).trans (fullRecord_readTable_unread args s ?_)
      rw [readTableArgs?_of named, if_neg fun ⟨inside, counts⟩ => bad.elim (fun out => absurd inside (by omega)) counts]
    · refine (fullRecordOf_code .readTable _ s).trans (fullRecord_readTable_unread args s ?_)
      simp only [readTableArgs?, unnamed]
    · refine (fullRecordOf_code .traceRead _ s).trans ((fullRecord_traceRead args s b0 b1).trans (if_neg ?_))
      exact fun out => out.elim (fun h => by omega) counts
    · exact (fullRecordOf_code .traceRead _ s).trans ((fullRecord_traceRead args s b0 b1).trans (if_pos bad))
  case turn =>
    rintro rfl length
    refine ⟨fun full => runCommands_truncated enough length full, fun fits => ⟨fun unknown => ?_, ?_⟩⟩
    · rw [runCommands_command length enough fits, ListRun.command_unknown unknown]
    · rintro c reply rfl rfl
      rw [runCommands_command length enough fits, ListRun.command_known]

end Sys2Proof.Machine

/-! The table writes: entries cut from bytes, stored from an index, the refusals (9.4). -/

namespace Sys2Proof.Machine

/-! ## Bytes cut into entries (R169) -/

theorem pieces_append (size : Nat) (a b : Nat) (xs ys : List Byte) (h : xs.length = a * size) :
    pieces size (a + b) (xs ++ ys) = pieces size a xs ++ pieces size b ys := by
  induction a generalizing xs with
  | zero =>
    obtain rfl : xs = [] := List.length_eq_zero_iff.1 (by omega)
    simp [pieces]
  | succ a ih =>
    have long : size ≤ xs.length := by rw [h]; nlinarith
    rw [Nat.add_right_comm]
    simp only [pieces, List.take_append_of_le_length long, List.drop_append_of_le_length long]
    rw [ih _ (by rw [List.length_drop, h, Nat.add_mul]; omega), List.cons_append]

/-- Entries laid one behind the other are cut apart again. -/
theorem pieces_flatMap {α : Type} {size : Nat} (enc : α → List Byte) (length : ∀ v, (enc v).length = size) (vs : List α) :
    pieces size vs.length (vs.flatMap enc) = vs.map enc := by
  induction vs with
  | nil => rfl
  | cons v vs ih =>
    rw [List.flatMap_cons, List.length_cons, Nat.add_comm, pieces_append _ 1 _ _ _ (by simp [length])]
    simp only [pieces, List.take_of_length_le (length v).le, ih, List.map_cons, List.cons_append, List.nil_append]

theorem length_flatMap_const {α β : Type} {size : Nat} (enc : α → List β) (length : ∀ v, (enc v).length = size)
    (vs : List α) : (vs.flatMap enc).length = vs.length * size := by
  simp [List.length_flatMap, length]

theorem TableId.entryLength_pos (id : TableId) : 0 < id.entryLength := by
  cases id <;> decide

theorem wholeEntries_eq {id : TableId} {bytes : List Byte} {count : Nat} (length : bytes.length = count * id.entryLength)
    (some_bytes : bytes ≠ []) : wholeEntries id bytes = some (pieces id.entryLength count bytes) := by
  have div : bytes.length / id.entryLength = count := by rw [length, Nat.mul_div_cancel _ id.entryLength_pos]
  rw [wholeEntries, if_pos ⟨some_bytes, by rw [length, Nat.mul_mod_left]⟩, div]

theorem wholeEntries_none {id : TableId} {bytes : List Byte} (h : bytes = [] ∨ bytes.length % id.entryLength ≠ 0) :
    wholeEntries id bytes = none :=
  if_neg fun ⟨some_bytes, whole⟩ => h.elim some_bytes fun odd => odd whole

/-! ## A write in a command (R169, R170) -/

section Command

variable {s : State} {env : Envelope} {number start : Byte} {id : TableId} {rest : List Byte}

/-- A write of table `id` may go on: it stores no entry of class S, or the device is in STANDBY (R149). -/
def State.MayWrite (s : State) (id : TableId) (start : Nat) : Prop :=
  s.management.device = .standby ∨ writesClassS id start = false

theorem State.writeFrom_eq {start : Nat} (may : s.MayWrite id start) (entries : List (List Byte)) :
    s.writeFrom id start entries =
      { state := (State.writeEntries id entries start s).state.withCursor id (State.writeEntries id entries start s).index,
        result := (State.writeEntries id entries start s).result,
        data := [byte ((State.writeEntries id entries start s).index - start)], restart := false } := by
  refine if_neg fun ⟨busy, classS⟩ => ?_
  rcases may with standby | other
  · exact busy standby
  · rw [other] at classS; cases classS

theorem State.writeFrom_refused {start : Nat} (operating : s.management.device ≠ .standby)
    (classS : writesClassS id start = true) (entries : List (List Byte)) :
    s.writeFrom id start entries = .refuse s .notInStandby :=
  if_pos ⟨operating, classS⟩

theorem State.writeFrom_restart (s : State) (id : TableId) (start : Nat) (entries : List (List Byte)) :
    (s.writeFrom id start entries).restart = false := by
  unfold State.writeFrom
  split <;> rfl

theorem cmdWriteTable_named (named : TableId.ofByte? number = some id) (inside : start.toNat < id.size)
    {entries : List (List Byte)} (whole : wholeEntries id rest = some entries) :
    cmdWriteTable (number :: start :: rest) s = s.writeFrom id start.toNat entries := by
  simp only [cmdWriteTable, named, if_neg (show ¬id.size ≤ start.toNat by omega), whole]

theorem cmdWriteTable_refused (named : TableId.ofByte? number = some id)
    (bad : id.size ≤ start.toNat ∨ wholeEntries id rest = none) :
    cmdWriteTable (number :: start :: rest) s = .refuse s .badArgument := by
  by_cases out : id.size ≤ start.toNat
  · simp only [cmdWriteTable, named, if_pos out]
  · simp only [cmdWriteTable, named, if_neg out, bad.resolve_left out]

theorem cmdWriteTable_unnamed (unnamed : TableId.ofByte? number = none) :
    cmdWriteTable (number :: start :: rest) s = .refuse s .badArgument := by
  simp only [cmdWriteTable, unnamed]

theorem cmdWriteTable_short {args : List Byte} (short : args.length < 2) : cmdWriteTable args s = .refuse s .badArgument := by
  unfold cmdWriteTable
  split
  · simp only [List.length_cons] at short; omega
  · rfl

/-- WRITE TABLE of whole entries, its run of writes known. -/
theorem exec_writeTable (running : s.running) (short : rest.length ≤ 250) (named : TableId.ofByte? number = some id)
    (inside : start.toNat < id.size) (may : s.MayWrite id start.toNat) {entries : List (List Byte)}
    (whole : wholeEntries id rest = some entries) {w : Written}
    (written : State.writeEntries id entries start.toNat s = w) :
    exec (.writeTable env (number :: start :: rest)) s =
      .next ((w.state.withCursor id w.index).answer env .writeTable w.result [byte (w.index - start.toNat)]) := by
  have reply : Command.run .writeTable true (number :: start :: rest) s =
      { state := w.state.withCursor id w.index, result := w.result, data := [byte (w.index - start.toNat)],
        restart := false } :=
    (cmdWriteTable_named named inside whole).trans (by rw [State.writeFrom_eq may, written])
  have row : exec (.writeTable env (number :: start :: rest)) s = .next (s.controlOne .writeTable env _) :=
    exec_row running .writeTable env _
  rw [row, State.controlOne_answer s .writeTable env _ (by simp only [List.length_cons]; omega) (by rw [reply]), reply]

end Command

/-! ## Runs of entries -/

/-- Values put one behind the other from an index. -/
def State.putAll {α : Type} (put : State → Nat → α → State) : Nat → List α → State → State
  | _, [], s => s
  | i, v :: vs, s => State.putAll put (i + 1) vs (put s i v)

section Entries

variable {α : Type} {id : TableId} {enc : α → List Byte} {put : State → Nat → α → State}

/-- Entries that all fit and are all accepted, with others behind them. -/
theorem State.writeEntries_append {good : List α}
    (accepts : ∀ v ∈ good, ∀ (s : State) (i : Nat), s.writeEntry id i (enc v) = some (put s i v)) (more : List (List Byte))
    {i : Nat} (fits : i + good.length ≤ id.size) (s : State) :
    State.writeEntries id (good.map enc ++ more) i s =
      State.writeEntries id more (i + good.length) (State.putAll put i good s) := by
  induction good generalizing i s with
  | nil => rfl
  | cons v vs ih =>
    simp only [List.length_cons] at fits
    have accepted := accepts v List.mem_cons_self s i
    simp only [List.map_cons, List.cons_append, State.writeEntries, if_neg (show ¬id.size ≤ i by omega), accepted,
      State.putAll, List.length_cons]
    rw [ih (fun x hx => accepts x (List.mem_cons_of_mem _ hx)) (by omega), show i + 1 + vs.length = i + (vs.length + 1) by omega]

/-- Entries that reach the table's end, with one more behind it. -/
theorem State.writeEntries_past {good : List α}
    (accepts : ∀ v ∈ good, ∀ (s : State) (i : Nat), s.writeEntry id i (enc v) = some (put s i v)) {more : List (List Byte)}
    {i : Nat} (inside : i ≤ id.size) (reaches : id.size ≤ i + good.length)
    (passes : id.size < i + good.length + more.length) (s : State) :
    State.writeEntries id (good.map enc ++ more) i s =
      { state := State.putAll put i (good.take (id.size - i)) s, index := id.size, result := .tableEnd } := by
  have length : (good.take (id.size - i)).length = id.size - i := by rw [List.length_take]; omega
  have split : good.map enc ++ more = (good.take (id.size - i)).map enc ++ ((good.drop (id.size - i)).map enc ++ more) := by
    rw [← List.append_assoc, ← List.map_append, List.take_append_drop]
  obtain ⟨past, others, behind⟩ : ∃ past others, (good.drop (id.size - i)).map enc ++ more = past :: others := by
    refine List.exists_cons_of_length_pos ?_
    rw [List.length_append, List.length_map, List.length_drop]; omega
  rw [split, State.writeEntries_append (fun v hv => accepts v (List.mem_of_mem_take hv)) _ (by rw [length]; omega), behind,
    length, show i + (id.size - i) = id.size by omega, State.writeEntries, if_pos le_rfl]

/-- Entries that are all accepted, up to the table's end. -/
theorem State.writeEntries_all {vs : List α}
    (accepts : ∀ v ∈ vs, ∀ (s : State) (i : Nat), s.writeEntry id i (enc v) = some (put s i v)) {i : Nat}
    (inside : i ≤ id.size) (s : State) :
    State.writeEntries id (vs.map enc) i s =
      { state := State.putAll put i (vs.take (id.size - i)) s, index := i + min vs.length (id.size - i),
        result := if i + vs.length ≤ id.size then .ok else .tableEnd } := by
  by_cases fits : i + vs.length ≤ id.size
  · have written := State.writeEntries_append accepts [] fits s
    rw [List.append_nil] at written
    rw [written, if_pos fits, List.take_of_length_le (by omega), min_eq_left (by omega), State.writeEntries]
  · have written := State.writeEntries_past accepts (more := []) inside (by omega) (by simp; omega) s
    rw [List.append_nil] at written
    rw [written, if_neg fits, min_eq_right (by omega), show i + (id.size - i) = id.size by omega]

end Entries

/-! ## Values stored in a table -/

/-- Values stored from an index, each as its place makes it; values past the end fall away. -/
def storeFrom {α β : Type} {n : Nat} (f : Nat → β → α) : Vector α n → Nat → List β → Vector α n
  | t, _, [] => t
  | t, i, v :: vs => storeFrom f (t.setIfInBounds i (f i v)) (i + 1) vs

section Store

variable {α β : Type} {n : Nat} {f : Nat → β → α}

theorem storeFrom_get_outside (t : Vector α n) (i : Nat) (vs : List β) {j : Nat} (hj : j < n)
    (outside : j < i ∨ i + vs.length ≤ j) : (storeFrom f t i vs)[j] = t[j] := by
  induction vs generalizing t i with
  | nil => rfl
  | cons v vs ih =>
    simp only [List.length_cons] at outside
    rw [storeFrom, ih _ _ (by omega), Vector.getElem_setIfInBounds_ne _ (by omega)]

theorem storeFrom_get_inside (t : Vector α n) (i : Nat) (vs : List β) {j : Nat} (hj : j < n) (inside : i ≤ j) {v : β}
    (value : vs[j - i]? = some v) : (storeFrom f t i vs)[j] = f j v := by
  induction vs generalizing t i with
  | nil => simp at value
  | cons w vs ih =>
    rw [storeFrom]
    by_cases first : i = j
    · subst first
      obtain rfl : w = v := by simpa using value
      rw [storeFrom_get_outside _ _ _ hj (by omega), Vector.getElem_setIfInBounds_self]
    · refine ih _ _ (by omega) ?_
      rw [show j - i = j - (i + 1) + 1 by omega, List.getElem?_cons_succ] at value
      exact value

/-- The values past the end may as well be left away. -/
theorem storeFrom_take (t : Vector α n) (i : Nat) (vs : List β) : storeFrom f t i (vs.take (n - i)) = storeFrom f t i vs := by
  ext j hj
  by_cases inside : i ≤ j ∧ j < i + vs.length
  · obtain ⟨low, high⟩ := inside
    have value : vs[j - i]? = some vs[j - i] := List.getElem?_eq_getElem (by omega)
    rw [storeFrom_get_inside t i vs hj low value,
      storeFrom_get_inside t i _ hj low (by rw [List.getElem?_take_of_lt (by omega), value])]
  · rw [storeFrom_get_outside t i vs hj (by omega),
      storeFrom_get_outside t i _ hj (by rw [List.length_take]; omega)]

end Store

/-- A table of the state, read and replaced. -/
structure TableField (α : Type) (n : Nat) where
  get : State → Vector α n
  set : Vector α n → State → State
  get_set : ∀ v s, get (set v s) = v
  set_set : ∀ v w s, set v (set w s) = set v s
  set_get : ∀ s, set (get s) s = s

/-- Values put into one table are stored there, and nothing else changes. -/
theorem TableField.putAll_eq {α β : Type} {n : Nat} (table : TableField α n) (f : Nat → β → α) (i : Nat) (vs : List β)
    (s : State) :
    State.putAll (fun s i v => table.set ((table.get s).setIfInBounds i (f i v)) s) i vs s =
      table.set (storeFrom f (table.get s) i vs) s := by
  induction vs generalizing i s with
  | nil => rw [State.putAll, storeFrom, table.set_get]
  | cons v vs ih => rw [State.putAll, ih, table.get_set, table.set_set, storeFrom]

/-- The Step Table of a state, and the Gain, Fade and Window Tables. -/
def stepField : TableField Nat 48 :=
  { get := fun s => s.tables.step, set := fun v s => { s with tables := { s.tables with step := v } },
    get_set := fun _ _ => rfl, set_set := fun _ _ _ => rfl, set_get := fun _ => rfl }

def gainField : TableField Nat 32 :=
  { get := fun s => s.tables.gain, set := fun v s => { s with tables := { s.tables with gain := v } },
    get_set := fun _ _ => rfl, set_set := fun _ _ _ => rfl, set_get := fun _ => rfl }

def fadeField : TableField Nat 6 :=
  { get := fun s => s.tables.fade, set := fun v s => { s with tables := { s.tables with fade := v } },
    get_set := fun _ _ => rfl, set_set := fun _ _ _ => rfl, set_get := fun _ => rfl }

def windowField : TableField Window 32 :=
  { get := fun s => s.tables.window, set := fun v s => { s with tables := { s.tables with window := v } },
    get_set := fun _ _ => rfl, set_set := fun _ _ _ => rfl, set_get := fun _ => rfl }

end Sys2Proof.Machine

/-! WRITE TABLE of the Step, Gain and Fade Tables, and of Settings; the refusals; WRITE NEXT (9.4). -/

namespace Sys2Proof.Machine

/-! ## STEP, GAIN and FADE (R116 to R118) -/

/-- A two-byte entry. -/
def pairBytes (e : Byte × Byte) : List Byte :=
  [e.1, e.2]

/-- What a two-byte table stores of an entry: its number, brought between `low` and 16383. -/
def storedPair (low : Nat) (_ : Nat) (e : Byte × Byte) : Nat :=
  max low (min (256 * e.1.toNat + e.2.toNat) 16383)

/-- A table of the state that a command writes in two-byte entries. -/
structure PairTable (n : Nat) extends TableField Nat n where
  id : TableId
  low : Nat
  size_eq : id.size = n
  entryLength_eq : id.entryLength = 2
  writeEntry_eq : ∀ (s : State) (i : Nat) (e : Byte × Byte),
    s.writeEntry id i (pairBytes e) = some (set ((get s).setIfInBounds i (storedPair low i e)) s)

theorem entryNumber_pair (e : Byte × Byte) : entryNumber (pairBytes e) = 256 * e.1.toNat + e.2.toNat :=
  word16_toNat e.1 e.2

def stepPairs : PairTable 48 :=
  { stepField with
    id := .step, low := 1, size_eq := rfl, entryLength_eq := rfl,
    writeEntry_eq := fun s i e => by simp only [State.writeEntry, entryNumber_pair, storedPair]; rfl }

def gainPairs : PairTable 32 :=
  { gainField with
    id := .gain, low := 0, size_eq := rfl, entryLength_eq := rfl,
    writeEntry_eq := fun s i e => by simp only [State.writeEntry, entryNumber_pair, storedPair, Nat.zero_max]; rfl }

def fadePairs : PairTable 6 :=
  { fadeField with
    id := .fade, low := 0, size_eq := rfl, entryLength_eq := rfl,
    writeEntry_eq := fun s i e => by simp only [State.writeEntry, entryNumber_pair, storedPair, Nat.zero_max]; rfl }

/-- A write of such a table: what is stored, where the cursor rests, and the answer. -/
theorem PairTable.exec_writeTable {n : Nat} (p : PairTable n) {s : State} {env : Envelope} {number start : Byte}
    {entries : List (Byte × Byte)} (running : s.running) (named : TableId.ofByte? number = some p.id)
    (some_entries : entries ≠ []) (short : entries.length ≤ 125) (inside : start.toNat < n)
    (may : s.MayWrite p.id start.toNat) :
    exec (.writeTable env (number :: start :: entries.flatMap pairBytes)) s =
      .next
        (((p.set (storeFrom (storedPair p.low) (p.get s) start.toNat entries) s).withCursor p.id
            (min n (start.toNat + entries.length))).answer env .writeTable
          (if start.toNat + entries.length ≤ n then .ok else .tableEnd)
          [BitVec.ofNat 8 (min entries.length (n - start.toNat))]) := by
  have size := p.size_eq
  have length : (entries.flatMap pairBytes).length = entries.length * p.id.entryLength :=
    (length_flatMap_const pairBytes (fun _ => rfl) entries).trans (by rw [p.entryLength_eq])
  have some_bytes : entries.flatMap pairBytes ≠ [] := by
    obtain ⟨e, es, rfl⟩ := List.exists_cons_of_ne_nil some_entries
    simp [pairBytes]
  have whole := wholeEntries_eq length some_bytes
  rw [p.entryLength_eq, pieces_flatMap pairBytes fun _ => rfl] at whole
  have written := State.writeEntries_all (vs := entries) (fun e _ s i => p.writeEntry_eq s i e)
    (show start.toNat ≤ p.id.size by omega) s
  rw [p.putAll_eq, size, storeFrom_take] at written
  rw [Machine.exec_writeTable running (by rw [length, p.entryLength_eq]; omega) named (by omega) may whole written]
  dsimp only
  rw [show start.toNat + min entries.length (n - start.toNat) - start.toNat = min entries.length (n - start.toNat) by omega,
    show start.toNat + min entries.length (n - start.toNat) = min n (start.toNat + entries.length) by omega]
  rfl

/-- What stands in the table after it. -/
theorem storeFrom_pairs {n low : Nat} (table : Vector Nat n) (start : Nat) {entries : List (Byte × Byte)}
    {stored : Nat → Nat}
    (hstored : ∀ k, stored k =
      match entries[k]? with
      | some e => max low (min (256 * e.1.toNat + e.2.toNat) 16383)
      | none => 0) (i : Fin n) :
    (storeFrom (storedPair low) table start entries)[i] =
      if start ≤ i.val ∧ i.val < start + entries.length then stored (i.val - start) else table[i] := by
  split
  · rename_i inside
    obtain ⟨from_start, below⟩ := inside
    have value : entries[i.val - start]? = some entries[i.val - start] := List.getElem?_eq_getElem (by omega)
    rw [Fin.getElem_fin, storeFrom_get_inside table start entries i.isLt from_start value, hstored, value]
    rfl
  · exact storeFrom_get_outside table start entries i.isLt (by omega)

/-- Settles O35. -/
theorem writeTableStoresClampedValues : Obligations.WriteTableStoresClampedValues := by
  rintro s env start entries args stored running some_entries short rfl hstored
  refine ⟨fun inside standby => ?_, fun inside => ?_, fun inside => ?_⟩
  · exact ⟨_, storeFrom_pairs s.tables.step start.toNat (hstored 1),
      stepPairs.exec_writeTable running rfl some_entries short inside (.inl standby)⟩
  · exact ⟨_, storeFrom_pairs s.tables.gain start.toNat (hstored 0),
      gainPairs.exec_writeTable running rfl some_entries short inside (.inr rfl)⟩
  · exact ⟨_, storeFrom_pairs s.tables.fade start.toNat (hstored 0),
      fadePairs.exec_writeTable running rfl some_entries short inside (.inr rfl)⟩

/-! ## Refusals and WRITE NEXT (R169) -/

/-- No entry of class S stands at a table's end. -/
theorem writesClassS_size (id : TableId) : writesClassS id id.size = false := by
  cases id <;> rfl

theorem writesClassS_of {id : TableId} {start : Nat} (inside : start < id.size)
    (h : id = .step ∨ (id = .settings ∧ start < 2)) : writesClassS id start = true := by
  rcases h with rfl | ⟨rfl, low⟩
  · exact decide_eq_true inside
  · exact decide_eq_true low

theorem State.withCursor_self {s : State} {id : TableId} {i : Nat} (table : s.management.cursor.table = id)
    (index : s.management.cursor.index = i) : s.withCursor id i = s := by
  subst table index
  rfl

/-- Entries written where the table ends: none. -/
theorem State.writeFrom_end {s : State} {id : TableId} (table : s.management.cursor.table = id)
    (index : s.management.cursor.index = id.size) {entries : List (List Byte)} (some_entries : entries ≠ []) :
    s.writeFrom id id.size entries = { state := s, result := .tableEnd, data := [0], restart := false } := by
  obtain ⟨e, es, rfl⟩ := List.exists_cons_of_ne_nil some_entries
  rw [State.writeFrom_eq (.inr (writesClassS_size id))]
  simp only [State.writeEntries, if_pos le_rfl, State.withCursor_self table index, Nat.sub_self]
  rfl

theorem cmdWriteNext_whole {s : State} {id : TableId} {args : List Byte} {entries : List (List Byte)}
    (table : s.management.cursor.table = id) (whole : wholeEntries id args = some entries) :
    cmdWriteNext args s = s.writeFrom id s.management.cursor.index entries := by
  subst table
  simp only [cmdWriteNext, whole]

theorem cmdWriteNext_refused {s : State} {id : TableId} {args : List Byte} (table : s.management.cursor.table = id)
    (bad : wholeEntries id args = none) : cmdWriteNext args s = .refuse s .badArgument := by
  subst table
  simp only [cmdWriteNext, bad]

/-- A row by the reply of its command. -/
theorem exec_row_reply {s : State} {c : Command} {env : Envelope} {args : List Byte} {reply : Reply}
    (running : s.running) (short : args.length ≤ 252) (replies : c.run true args s = reply)
    (stays : reply.restart = false) :
    exec (c.row env args) s = .next (reply.state.answer env c reply.result reply.data) := by
  subst replies
  rw [exec_row running, State.controlOne_answer s c env args short stays]

/-- Settles O38. -/
theorem tableWritesRefuseAndContinue : Obligations.TableWritesRefuseAndContinue := by
  intro s env args id number start running short named
  have pair_short (x : Byte) : (x :: start :: args).length ≤ 252 := by simp only [List.length_cons]; omega
  refine ⟨fun other unnamed => ?_, fun few => ?_, fun bad => ?_, fun inside some_bytes whole operating classS => ?_,
    fun table => ⟨fun index inside => ?_, fun index some_bytes whole => ?_, fun bad => ?_⟩⟩
  · exact exec_row_refuse (c := .writeTable) running (pair_short _) (cmdWriteTable_unnamed unnamed)
  · exact exec_row_refuse (c := .writeTable) running (by omega) (cmdWriteTable_short few)
  · exact exec_row_refuse (c := .writeTable) running (pair_short _)
      (cmdWriteTable_refused named (bad.imp_right wholeEntries_none))
  · have entries : wholeEntries id args = some _ := if_pos ⟨some_bytes, whole⟩
    have refused := State.writeFrom_refused (s := s) (by rw [operating]; decide) (writesClassS_of inside classS)
      (pieces id.entryLength (args.length / id.entryLength) args)
    exact exec_row_refuse (c := .writeTable) running (pair_short _) ((cmdWriteTable_named named inside entries).trans refused)
  · cases whole : wholeEntries id args with
    | none =>
      exact ⟨s, .badArgument, [], exec_row_refuse (c := .writeNext) running (by omega) (cmdWriteNext_refused table whole),
        exec_row_refuse (c := .writeTable) running (pair_short _) (cmdWriteTable_refused named (.inr whole))⟩
    | some entries =>
      have stays := s.writeFrom_restart id start.toNat entries
      have next := cmdWriteNext_whole table whole
      rw [index] at next
      exact ⟨_, _, _, exec_row_reply (c := .writeNext) running (by omega) next stays,
        exec_row_reply (c := .writeTable) running (pair_short _) (cmdWriteTable_named named inside whole) stays⟩
  · have length : args.length = args.length / id.entryLength * id.entryLength :=
      (Nat.div_mul_cancel (Nat.dvd_of_mod_eq_zero whole)).symm
    have entries := wholeEntries_eq length some_bytes
    have some_entries : pieces id.entryLength (args.length / id.entryLength) args ≠ [] := by
      obtain ⟨k, hk⟩ : ∃ k, args.length / id.entryLength = k + 1 := by
        refine Nat.exists_eq_succ_of_ne_zero fun zero => some_bytes (List.length_eq_zero_iff.1 ?_)
        rw [length, zero, Nat.zero_mul]
      rw [hk]
      exact List.cons_ne_nil _ _
    have reply := cmdWriteNext_whole table entries
    rw [index, State.writeFrom_end table index some_entries] at reply
    exact exec_row_reply (c := .writeNext) running (by omega) reply rfl
  · exact exec_row_refuse (c := .writeNext) running (by omega) (cmdWriteNext_refused table (wholeEntries_none bad))

end Sys2Proof.Machine

/-! WRITE TABLE of windows and of Settings (3.3, 8.2, 9.4). -/

namespace Sys2Proof.Machine

/-! ## Windows (R52, R169, R170) -/

/-- A window as the six bytes of its entry. -/
def windowBytes (w : Window) : List Byte :=
  [if w.valid then 1 else 0, BitVec.ofNat 8 (w.base.toNat / 256), BitVec.ofNat 8 w.base.toNat,
    BitVec.ofNat 8 (w.limit.toNat / 256), BitVec.ofNat 8 w.limit.toNat, BitVec.ofNat 8 w.first]

/-- A legal window is read back from its entry. -/
theorem Window.ofBytes?_windowBytes {w : Window} (order : w.base.toNat ≤ w.limit.toNat) (first : w.first ≤ 191) :
    Window.ofBytes? (windowBytes w) = some w := by
  have number : (BitVec.ofNat 8 w.first).toNat = w.first := by rw [BitVec.toNat_ofNat]; omega
  have flag : (if w.valid then (1 : Byte) else 0) = 0 ∨ (if w.valid then (1 : Byte) else 0) = 1 := by
    cases w.valid <;> decide
  have valid : ((if w.valid then (1 : Byte) else 0) == 1) = w.valid := by cases w.valid <;> decide
  simp only [Window.ofBytes?, windowBytes, word16_bytes, number, valid]
  exact if_pos ⟨flag, order, first⟩

/-- An entry that R52 refuses. -/
theorem Window.ofBytes?_refused {valid b1 b0 l1 l0 first : Byte}
    (bad : ¬((valid = 0 ∨ valid = 1) ∧ 256 * b1.toNat + b0.toNat ≤ 256 * l1.toNat + l0.toNat ∧ first.toNat ≤ 191)) :
    Window.ofBytes? [valid, b1, b0, l1, l0, first] = none := by
  simp only [Window.ofBytes?, word16_toNat, if_neg bad]

/-- A window put into the Window Table. -/
def State.putWindow (s : State) (i : Nat) (w : Window) : State :=
  windowField.set ((windowField.get s).setIfInBounds i w) s

theorem State.putAll_putWindow (i : Nat) (good : List Window) (s : State) :
    State.putAll State.putWindow i good s =
      { s with tables := { s.tables with window := storeFrom (fun _ w => w) s.tables.window i good } } :=
  windowField.putAll_eq (fun _ w => w) i good s

section Windows

variable {s : State} {good : List Window}

theorem writeEntry_window (legal : ∀ w ∈ good, w.base.toNat ≤ w.limit.toNat ∧ w.first ≤ 191) :
    ∀ w ∈ good, ∀ (s : State) (i : Nat), s.writeEntry .window i (windowBytes w) = some (s.putWindow i w) := by
  intro w hw s i
  obtain ⟨order, first⟩ := legal w hw
  simp only [State.writeEntry, Window.ofBytes?_windowBytes order first, Option.map_some]
  rfl

/-- Entries of windows, and bytes of more entries behind them, cut apart. -/
theorem wholeEntries_windows {rest : List Byte} (whole : rest.length % 6 = 0) (some_bytes : good ≠ [] ∨ rest ≠ []) :
    wholeEntries .window (good.flatMap windowBytes ++ rest) =
      some (good.map windowBytes ++ pieces 6 (rest.length / 6) rest) := by
  have goodLength : (good.flatMap windowBytes).length = good.length * 6 :=
    length_flatMap_const windowBytes (fun _ => rfl) good
  have length : (good.flatMap windowBytes ++ rest).length = (good.length + rest.length / 6) * TableId.window.entryLength := by
    show _ = _ * 6
    rw [List.length_append, goodLength]
    omega
  have some_bytes' : good.flatMap windowBytes ++ rest ≠ [] := by
    rcases some_bytes with some_good | some_rest
    · obtain ⟨w, ws, rfl⟩ := List.exists_cons_of_ne_nil some_good
      simp [windowBytes]
    · simp [some_rest]
  have cut : pieces TableId.window.entryLength (good.length + rest.length / 6) (good.flatMap windowBytes ++ rest) =
      good.map windowBytes ++ pieces 6 (rest.length / 6) rest :=
    (pieces_append 6 good.length (rest.length / 6) _ rest goodLength).trans
      (congrArg (· ++ pieces 6 (rest.length / 6) rest) (pieces_flatMap windowBytes (fun _ => rfl) good))
  rw [wholeEntries_eq length some_bytes', cut]

/-- One entry of six bytes before others. -/
theorem pieces_window_cons {e rest : List Byte} (six : e.length = 6) :
    pieces 6 ((e ++ rest).length / 6) (e ++ rest) = e :: pieces 6 (rest.length / 6) rest := by
  have count : (e ++ rest).length / 6 = 1 + rest.length / 6 := by rw [List.length_append]; omega
  rw [count, pieces_append 6 1 _ e rest (by omega)]
  simp only [pieces, List.take_of_length_le six.le, List.cons_append, List.nil_append]

end Windows

/-- Settles O36: the legal entries alone, an entry past the end, a refused entry. -/
theorem windowWriteStopsAtRefusedEntry : Obligations.WindowWriteStopsAtRefusedEntry := by
  rintro s env start good args n running legal inside hargs rfl
  have accepts := writeEntry_window legal
  have start_le : start.toNat ≤ TableId.window.size := inside.le
  have length : args.length = good.length * 6 := by
    rw [hargs]; exact length_flatMap_const windowBytes (fun _ => rfl) good
  replace hargs : args = good.flatMap windowBytes := hargs
  have taken : State.putAll State.putWindow start.toNat (good.take (32 - start.toNat)) s =
      { s with tables := { s.tables with window := storeFrom (fun _ w => w) s.tables.window start.toNat good } } := by
    rw [State.putAll_putWindow, storeFrom_take]
  refine ⟨storeFrom (fun _ w => w) s.tables.window start.toNat good, fun i w => ⟨fun low _ value => ?_, fun outside => ?_⟩,
    fun some_good few => ?alone, fun past rest reaches six whole short => ?past,
    fun valid b1 b0 l1 l0 first rest bad room whole short => ?refused⟩
  · exact storeFrom_get_inside _ _ _ i.isLt low value
  · exact storeFrom_get_outside _ _ _ i.isLt outside
  case alone =>
    have entries := wholeEntries_windows (good := good) (rest := []) rfl (.inl some_good)
    have written := State.writeEntries_all accepts start_le s
    rw [show TableId.window.size = 32 from rfl, taken] at written
    rw [List.append_nil, ← hargs] at entries
    rw [exec_writeTable running (by omega) rfl inside (.inr rfl) entries ((congrArg (State.writeEntries .window · _ s)
      (List.append_nil _)).trans written)]
    dsimp only
    rw [Nat.add_sub_cancel_left]
    rfl
  case past =>
    have entries := wholeEntries_windows (good := good) (rest := past ++ rest)
      (by rw [List.length_append]; omega) (.inr (List.append_ne_nil_of_left_ne_nil (List.ne_nil_of_length_pos (by omega)) _))
    rw [pieces_window_cons six, ← hargs, ← List.append_assoc] at entries
    have written := State.writeEntries_past accepts (more := past :: pieces 6 (rest.length / 6) rest) start_le reaches
      (by simp only [List.length_cons]; show 32 < _; omega) s
    rw [show TableId.window.size = 32 from rfl, taken] at written
    rw [exec_writeTable running (by simp only [List.length_append]; omega) rfl inside (.inr rfl) entries written]
    rfl
  case refused =>
    have entries := wholeEntries_windows (good := good) (rest := [valid, b1, b0, l1, l0, first] ++ rest)
      (by simp only [List.length_append, List.length_cons, List.length_nil]; omega) (.inr (by simp))
    rw [pieces_window_cons rfl, ← hargs, ← List.append_assoc] at entries
    have written := State.writeEntries_append accepts ([valid, b1, b0, l1, l0, first] :: pieces 6 (rest.length / 6) rest)
      (show start.toNat + good.length ≤ TableId.window.size from room.le) s
    have refused (t : State) : t.writeEntry .window (start.toNat + good.length) [valid, b1, b0, l1, l0, first] = none := by
      simp only [State.writeEntry, Window.ofBytes?_refused bad, Option.map_none]
    simp only [State.writeEntries, refused, if_neg (show ¬TableId.window.size ≤ start.toNat + good.length from by
      show ¬32 ≤ _; omega), State.putAll_putWindow] at written
    rw [exec_writeTable running (by simp only [List.length_append, List.length_cons, List.length_nil]; omega) rfl inside
      (.inr rfl) entries written]
    dsimp only
    rw [Nat.add_sub_cancel_left]
    rfl

/-! ## Settings (R25, R151) -/

/-- Supervision where the Settings Table goes from `old` to `new`: afresh where entry 0 or 1 changes. -/
def HighwayPort.withRoles (hp : HighwayPort) (old new : Vector Nat 8) : HighwayPort :=
  if new[0] = old[0] ∧ new[1] = old[1] then hp else hp.superviseAfresh

theorem HighwayPort.superviseAfresh_idempotent (hp : HighwayPort) :
    hp.superviseAfresh.superviseAfresh = hp.superviseAfresh := by
  simp [HighwayPort.superviseAfresh]

/-- Two changes are one, where the second does not put back entry 0 or 1. -/
theorem HighwayPort.withRoles_withRoles (hp : HighwayPort) {old v w : Vector Nat 8}
    (keeps : w[0] = old[0] ∧ w[1] = old[1] → v[0] = old[0] ∧ v[1] = old[1]) :
    (hp.withRoles old v).withRoles v w = hp.withRoles old w := by
  unfold HighwayPort.withRoles
  by_cases first : v[0] = old[0] ∧ v[1] = old[1]
  · rw [if_pos first]
    obtain ⟨same0, same1⟩ := first
    rw [same0, same1]
  · rw [if_neg first, if_neg (mt keeps first)]
    split
    · rfl
    · exact hp.superviseAfresh_idempotent

/-- The Settings Table replaced, and supervision with it. -/
def State.withSettings (s : State) (table : Vector Nat 8) : State :=
  { s with
    tables := { s.tables with settings := table }, highway := s.highway.withRoles s.tables.settings table }

theorem State.withSettings_self (s : State) : s.withSettings s.tables.settings = s := by
  simp [State.withSettings, HighwayPort.withRoles]

theorem State.withSettings_withSettings {s : State} {v w : Vector Nat 8}
    (keeps : w[0] = s.tables.settings[0] ∧ w[1] = s.tables.settings[1] →
      v[0] = s.tables.settings[0] ∧ v[1] = s.tables.settings[1]) :
    (s.withSettings v).withSettings w = s.withSettings w :=
  congrArg (fun hp => ({ s.withSettings w with highway := hp } : State)) (s.highway.withRoles_withRoles keeps)

/-- One entry of Settings stored. -/
theorem State.writeSetting_eq (s : State) (i v : Nat) :
    s.writeSetting i v = s.withSettings (s.tables.settings.setIfInBounds i (clampSetting i v)) := by
  have roles : (i < 2 ∧ clampSetting i v ≠ s.tables.setting i) ↔
      ¬((s.tables.settings.setIfInBounds i (clampSetting i v))[0] = s.tables.settings[0] ∧
        (s.tables.settings.setIfInBounds i (clampSetting i v))[1] = s.tables.settings[1]) := by
    match i with
    | 0 => simp [Tables.setting]
    | 1 => simp [Tables.setting]
    | i + 2 => simp
  unfold State.writeSetting State.withSettings HighwayPort.withRoles
  dsimp only
  by_cases changes : i < 2 ∧ clampSetting i v ≠ s.tables.setting i
  · rw [if_pos changes, if_neg (roles.1 changes)]
  · rw [if_neg changes, if_pos (not_not.1 (mt roles.2 changes))]

/-- What the Settings Table stores of a byte at an index. -/
def storedSetting (i : Nat) (v : Byte) : Nat :=
  clampSetting i v.toNat

/-- A run of writes replaces the table once. -/
theorem State.putAll_writeSetting (i : Nat) (values : List Byte) (s : State) :
    State.putAll (fun s i (v : Byte) => s.writeSetting i v.toNat) i values s =
      s.withSettings (storeFrom storedSetting s.tables.settings i values) := by
  induction values generalizing i s with
  | nil => exact s.withSettings_self.symm
  | cons v vs ih =>
    rw [State.putAll, ih, State.writeSetting_eq, storeFrom]
    refine State.withSettings_withSettings fun ⟨same0, same1⟩ => ?_
    have entry (j : Nat) (hj : j < 8)
        (same : (storeFrom storedSetting (s.tables.settings.setIfInBounds i (storedSetting i v)) (i + 1) vs)[j] =
          s.tables.settings[j]) :
        (s.tables.settings.setIfInBounds i (storedSetting i v))[j] = s.tables.settings[j] := by
      by_cases here : i = j
      · rwa [storeFrom_get_outside _ _ _ hj (.inl (by omega))] at same
      · exact Vector.getElem_setIfInBounds_ne hj here
    exact ⟨entry 0 (by omega) same0, entry 1 (by omega) same1⟩

/-- A write of Settings: what is stored, where the cursor rests, and the answer. -/
theorem exec_writeSettings {s : State} {env : Envelope} {start : Byte} {values : List Byte} (running : s.running)
    (some_values : values ≠ []) (short : values.length ≤ 250) (inside : start.toNat < 8)
    (may : s.MayWrite .settings start.toNat) :
    exec (.writeTable env (5 :: start :: values)) s =
      .next
        (((s.withSettings (storeFrom storedSetting s.tables.settings start.toNat values)).withCursor .settings
            (start.toNat + min values.length (8 - start.toNat))).answer env .writeTable
          (if start.toNat + values.length ≤ 8 then .ok else .tableEnd)
          [BitVec.ofNat 8 (min values.length (8 - start.toNat))]) := by
  have entries : wholeEntries .settings values = some (values.map fun v => [v]) := by
    have cut := pieces_flatMap (fun v : Byte => [v]) (fun _ => rfl) values
    rw [List.flatMap_singleton'] at cut
    exact (wholeEntries_eq (by simp [TableId.entryLength]) some_values).trans (congrArg some cut)
  have written := State.writeEntries_all (id := .settings) (enc := fun v : Byte => [v]) (vs := values)
    (put := fun s i (v : Byte) => s.writeSetting i v.toNat) (fun _ _ _ _ => rfl) (show start.toNat ≤ 8 from inside.le) s
  rw [show TableId.settings.size = 8 from rfl, State.putAll_writeSetting, storeFrom_take] at written
  rw [exec_writeTable running short rfl inside may entries written]
  dsimp only
  rw [Nat.add_sub_cancel_left]
  rfl

/-- Settles O37. -/
theorem settingsWriteClampsAndResupervises : Obligations.SettingsWriteClampsAndResupervises := by
  rintro s env start n values stored running inside some_values short may rfl hstored
  have number : (BitVec.ofNat 8 start).toNat = start := by rw [BitVec.toNat_ofNat]; omega
  have allowed : s.MayWrite .settings (BitVec.ofNat 8 start).toNat :=
    may.imp_right fun high => decide_eq_false (by rw [number]; omega)
  have row := exec_writeSettings (env := env) running some_values short (by rw [number]; exact inside) allowed
  rw [number] at row
  have roles {v w : Vector Nat 8} : (∀ i : Fin 8, i.val < 2 → v[i] = w[i]) ↔ v[0] = w[0] ∧ v[1] = w[1] := by
    refine ⟨fun same => ⟨same 0 (by decide), same 1 (by decide)⟩, fun ⟨same0, same1⟩ i low => ?_⟩
    match i with
    | 0 => exact same0
    | 1 => exact same1
  refine ⟨storeFrom storedSetting s.tables.settings start values,
    (s.withSettings (storeFrom storedSetting s.tables.settings start values)).highway, fun i => ?_, row,
    fun same => if_pos (roles.1 same), fun ⟨i, low, differs⟩ => ?_⟩
  · split
    · rename_i stands
      obtain ⟨low, high⟩ := stands
      have value : values[i.val - start]? = some values[i.val - start] := List.getElem?_eq_getElem (by omega)
      rw [Fin.getElem_fin, storeFrom_get_inside _ _ _ i.isLt low value, hstored i.val _ low value]
      rfl
    · exact storeFrom_get_outside _ _ _ i.isLt (by omega)
  · have afresh : (s.withSettings (storeFrom storedSetting s.tables.settings start values)).highway =
        s.highway.superviseAfresh := if_neg fun same => differs (roles.2 same i low)
    rw [afresh]
    exact ⟨rfl, fun k => by simp [HighwayPort.superviseAfresh]⟩

end Sys2Proof.Machine

/-! The ends of the engine's runs (5.5, 5.6). -/

namespace Sys2Proof.Machine

/-! ## The three events (R100, R103) -/

theorem exec_decodeCompletion {s : State} (running : s.running) :
    exec .decodeCompletion s = .next s.completeDecode :=
  if_neg running

theorem exec_encodeCompletion {s : State} (running : s.running) :
    exec .encodeCompletion s = .next s.completeEncode :=
  if_neg running

theorem exec_voidRunEnd {s : State} (running : s.running) : exec .voidRunEnd s = .next s.endVoid :=
  if_neg running

section Completion

variable {s : State} {r : Run}

/-- The end of a DECODE run, by whether it delivers. -/
theorem State.completeDecode_decode (current : s.engine.current = some r) (kind : r.job.work.kind = .decode) :
    s.completeDecode = if s.delivers r.job then s.deliverDecode r else s.endRun := by
  cases work : r.job.work with
  | encode w => rw [work] at kind; cases kind
  | frame f => simp only [State.completeDecode, current, work]
  | conceal k f => simp only [State.completeDecode, current, work]
  | zero => simp only [State.completeDecode, current, work]

/-- A DECODE run has no ENCODE end. -/
theorem State.completeEncode_decode (current : s.engine.current = some r) (kind : r.job.work.kind = .decode) :
    s.completeEncode = s := by
  cases work : r.job.work with
  | encode w => rw [work] at kind; cases kind
  | frame f => simp only [State.completeEncode, current, work]
  | conceal k f => simp only [State.completeEncode, current, work]
  | zero => simp only [State.completeEncode, current, work]

/-- The end of an ENCODE run, by whether it delivers; it has no DECODE end. -/
theorem State.complete_encode {w : EncodeWork} (current : s.engine.current = some r) (work : r.job.work = .encode w) :
    s.completeEncode = (if s.delivers r.job then s.deliverEncode r w else s.endRun) ∧ s.completeDecode = s := by
  constructor
  · simp only [State.completeEncode, current, work]
  · simp only [State.completeDecode, current, work]

theorem exists_encode_of_kind {work : Work} (kind : work.kind = .encode) : ∃ w, work = .encode w := by
  cases work with
  | encode w => exact ⟨w, rfl⟩
  | frame f => cases kind
  | conceal k f => cases kind
  | zero => cases kind

/-- A run that is void, of another call, or of a FREE context does not deliver. -/
theorem State.delivers_eq_false
    (h : r.job.void = true ∨ r.job.generation ≠ (s.channel r.job.context).generation ∨
      (s.channel r.job.context).state = .free) : s.delivers r.job = false := by
  rw [Bool.eq_false_iff]
  intro delivers
  obtain ⟨live, call, used⟩ := (s.delivers_iff r.job).1 delivers
  rcases h with void | other | free
  · rw [live] at void; cases void
  · exact other call
  · exact used free

end Completion

/-- Settles O46. -/
theorem voidRunsDeliverNothing : Obligations.VoidRunsDeliverNothing := by
  refine fun s running => ⟨fun r current ends => ?_, fun r current live call used => ?_, fun idle => ?_⟩
  · have discards : ¬s.delivers r.job = true := Bool.eq_false_iff.1 (State.delivers_eq_false ends)
    rw [exec_voidRunEnd running, exec_decodeCompletion running, exec_encodeCompletion running]
    refine ⟨?_, fun kind => ⟨?_, ?_⟩, fun kind => ?_⟩
    · simp only [State.endVoid, current, if_neg discards]
      rfl
    · rw [State.completeDecode_decode current kind, if_neg discards]
      rfl
    · rw [State.completeEncode_decode current kind]
    · obtain ⟨w, work⟩ := exists_encode_of_kind kind
      obtain ⟨encode, decode⟩ := State.complete_encode current work
      rw [encode, decode, if_neg discards]
      exact ⟨rfl, rfl⟩
  · have delivers := (s.delivers_iff r.job).2 ⟨live, call, used⟩
    rw [exec_voidRunEnd running]
    simp only [State.endVoid, current, if_pos delivers]
  · rw [exec_voidRunEnd running, exec_decodeCompletion running, exec_encodeCompletion running]
    simp only [State.endVoid, State.completeDecode, State.completeEncode, idle, and_self]

/-! ## The trace (R106, R181) -/

/-- What a job's arming is. -/
theorem Job.eq_arming_iff (j : Job) (a : Arming) :
    a = j.arming ↔ a.context = j.context ∧ a.point = tracedAt j.work.kind ∧ a.generation = j.generation := by
  constructor
  · rintro rfl; exact ⟨rfl, rfl, rfl⟩
  · rintro ⟨context, point, generation⟩
    cases a
    cases context; cases point; cases generation
    rfl

theorem State.offerTrace_armed {s : State} {j : Job} {a : Arming} (armed : s.trace = .armed a) (mine : a = j.arming)
    (samples : List Sample) :
    s.offerTrace j samples = ({ s with trace := .filled a samples } : State).raise .traceDone := by
  simp only [State.offerTrace, armed, if_pos mine]

theorem State.offerTrace_other {s : State} {j : Job} (other : ∀ a, s.trace = .armed a → a ≠ j.arming)
    (samples : List Sample) : s.offerTrace j samples = s := by
  unfold State.offerTrace
  split
  · rename_i a armed
    exact if_neg (other a armed)
  · rfl

/-- A DECODE run's results in its context. -/
def State.committedDecode (s : State) (r : Run) : State :=
  s.updateChannel r.job.context fun c => c.takeDecode r.decode

/-- What the trace makes of it. -/
def State.tracedDecode (s : State) (r : Run) : State :=
  (s.committedDecode r).offerTrace r.job r.decode.samples

theorem State.deliverDecode_eq (s : State) (r : Run) : s.deliverDecode r = (s.tracedDecode r).endRun :=
  rfl

/-- Settles O44. -/
theorem decodeCompletionDelivers : Obligations.DecodeCompletionDelivers := by
  rintro s r n c running current rfl rfl kind live call used
  have hn : r.job.context < 192 := State.lt_of_not_free used
  have delivers := (s.delivers_iff r.job).2 ⟨live, call, used⟩
  have point : tracedAt r.job.work.kind = .uplink := by rw [kind]; rfl
  have channel : (s.tracedDecode r).channel r.job.context = (s.channel r.job.context).takeDecode r.decode :=
    (State.offerTrace_channel _ _ _ _).trans (State.channel_updateChannel_self s _ _ hn)
  refine ⟨{ s.tracedDecode r with engine := { (s.tracedDecode r).engine with current := none } }, ?_, ?_, channel, fun m hm => ?_,
    fun a armed context uplink generation => ?_, fun other => ?_, ?_⟩
  · rw [exec_decodeCompletion running, State.completeDecode_decode current kind, if_pos delivers, State.deliverDecode_eq]
    rfl
  · exact congrArg (fun e => ({ e with current := none } : Engine)) (State.offerTrace_engine (s.committedDecode r) _ _)
  · exact (State.offerTrace_channel _ _ _ _).trans (State.channel_updateChannel_ne s _ m _ hm)
  · have filled := State.offerTrace_armed (s := s.committedDecode r) (j := r.job) armed
      ((r.job.eq_arming_iff a).2 ⟨context, uplink.trans point.symm, generation⟩) r.decode.samples
    have status : (s.tracedDecode r).status = s.status.raise .traceDone := congrArg State.status filled
    have flag (k : Nat) := s.status.raise_flag .traceDone k
    refine ⟨congrArg State.trace filled, ?_, fun k hk => ?_, ?_, ?_, ?_, ?_⟩
    all_goals dsimp only; rw [status]
    · rw [flag]; simp [Flag.bit]
    · rw [flag]; simp [Flag.bit, hk]
    · exact .raise _ _
    · exact s.status.raise_mask .traceDone
    · exact s.status.raise_counters .traceDone
    · exact s.status.raise_healthChanged .traceDone
  · have same : s.tracedDecode r = s.committedDecode r := State.offerTrace_other (fun a armed mine => by
      obtain ⟨context, at_point, generation⟩ := (r.job.eq_arming_iff a).1 mine
      exact other a armed ⟨context, at_point.trans point, generation⟩) _
    show (s.tracedDecode r).trace = s.trace ∧ (s.tracedDecode r).status = s.status
    rw [same]
    exact ⟨rfl, rfl⟩
  · exact ⟨State.offerTrace_management _ _ _, State.offerTrace_highway _ _ _, State.offerTrace_links _ _ _,
      State.offerTrace_tables _ _ _, State.offerTrace_stagingHold _ _ _, State.offerTrace_pending _ _ _⟩

/-- Settles O45. -/
theorem encodeCompletionDelivers : Obligations.EncodeCompletionDelivers := by
  rintro s r w n c committed offered running current work rfl rfl live call used hcommitted hoffered
  have delivers := (s.delivers_iff r.job).2 ⟨live, call, used⟩
  have point : tracedAt r.job.work.kind = .downlink := by rw [work]; rfl
  have writes : (s.updateChannel r.job.context fun c => c.takeEncode (r.encode w)) = committed := by
    rw [hcommitted]
    refine congrArg (s.updateChannel r.job.context) (funext fun c => ?_)
    cases unit : (r.encode w).unit <;> simp [Channel.takeEncode, unit, countUp]
  have offers : committed.offerUnit (r.encode w).unit = offered := by
    rw [hoffered]
    cases (r.encode w).unit <;> rfl
  have trace : offered.trace = s.trace := by rw [← offers, ← writes]; simp
  have ended : exec .encodeCompletion s = .next (offered.offerTrace r.job (r.encode w).samples).endRun := by
    rw [exec_encodeCompletion running, (State.complete_encode current work).1, if_pos delivers, State.deliverEncode, writes,
      offers]
  rw [ended]
  refine ⟨fun a armed context downlink generation => ?_, fun other => ?_⟩
  · rw [State.offerTrace_armed (trace.trans armed)
      ((r.job.eq_arming_iff a).2 ⟨context, downlink.trans point.symm, generation⟩)]
    rfl
  · rw [State.offerTrace_other fun a armed mine => ?_]
    · rfl
    · obtain ⟨context, at_point, generation⟩ := (r.job.eq_arming_iff a).1 mine
      exact other a (trace.symm.trans armed) ⟨context, at_point.trans point, generation⟩

end Sys2Proof.Machine

/-! Gain and the sample range; companding a second time (6.1 to 6.3). -/

namespace Sys2Proof.Machine

/-! ## Clips -/

/-- A value that saturation changes. -/
def outOfRange (x : Int) : Bool :=
  decide (x < -32768) || decide (32767 < x)

theorem outOfRange_iff (x : Int) : outOfRange x = true ↔ ¬inSampleRange x := by
  simp only [outOfRange, inSampleRange, Bool.or_eq_true, decide_eq_true_eq]
  omega

theorem clipOf_eq_ite (x : Int) : clipOf x = if outOfRange x then 1 else 0 := by
  rw [clipOf_eq]
  by_cases h : inSampleRange x
  · rw [if_pos h, if_neg (mt (outOfRange_iff x).1 (not_not_intro h))]
  · rw [if_neg h, if_pos ((outOfRange_iff x).2 h)]

/-- The clips of a list are counted one by one. -/
theorem sum_clipOf {α : Type} (f : α → Int) (xs : List α) :
    (xs.map fun x => clipOf (f x)).sum = xs.countP fun x => outOfRange (f x) := by
  induction xs with
  | nil => rfl
  | cons x xs ih =>
    rw [List.map_cons, List.sum_cons, ih, clipOf_eq_ite, List.countP_cons, Nat.add_comm]

/-! ## Gain and fade (R115) -/

/-- The nearest integer, saturated. -/
theorem saturate_scaled {g : Nat} {x y : Int} (low : 4096 * y - 2048 ≤ x * g) (high : x * g < 4096 * y + 2048) :
    saturate (scaled g x) = if 32767 < y then 32767 else if y < -32768 then -32768 else y := by
  have nearest : scaled g x = y := by
    unfold scaled
    generalize x * g = product at low high
    omega
  rw [nearest]
  show max (-32768 : Int) (min 32767 y) = _
  omega

theorem decodeE_range (code : Byte) : inSampleRange (decodeE code) := by
  have bound : ∀ c : Byte, inSampleRange (decodeE c) := by decide +kernel
  exact bound code

theorem decodeB_range (code : Byte) : inSampleRange (decodeB code) := by
  have bound : ∀ c : Byte, inSampleRange (decodeB c) := by decide +kernel
  exact bound code

/-- Every sample of a DECODE run went through the gain, or is zero. -/
theorem Run.decode_range (r : Run) : ∀ x ∈ r.decode.samples, inSampleRange x := by
  unfold Run.decode
  split
  · exact scale_range _ _
  · exact scale_range _ _
  · intro x hx
    rw [List.eq_of_mem_replicate hx]
    decide

/-- Settles O51. -/
theorem gainRoundsAndSamplesStayInRange : Obligations.GainRoundsAndSamplesStayInRange := by
  refine ⟨fun g xs => ⟨scale_length g xs, fun i x y value low high => ?_, ?_⟩, fun law code => ?_, scale_range,
    fun table prev f => decodeSubblocks_range table prev f.steps f.codes, Run.decode_range⟩
  · rw [scale, List.getElem?_map, value, Option.map_some, saturate_scaled low high]
  · refine (sum_clipOf (scaled g) xs).trans (congrArg (xs.countP ·) (funext fun x => ?_))
    exact Bool.or_comm _ _
  · cases law with
    | e => exact decodeE_range code
    | b => exact decodeB_range code

/-! ## Companding again (R110 to R113) -/

theorem codeFields_eq (c : Nat) : codeFields (c / 128) (c / 16 % 8) (c % 16) = c := by
  unfold codeFields; omega

/-- Every byte is the fields of some code, masked. -/
theorem exists_codeFields (mask code : Byte) :
    ∃ s e mantissa, s < 2 ∧ e < 8 ∧ mantissa < 16 ∧ code = BitVec.ofNat 8 (codeFields s e mantissa) ^^^ mask := by
  have bound := (code ^^^ mask).isLt
  refine ⟨(code ^^^ mask).toNat / 128, (code ^^^ mask).toNat / 16 % 8, (code ^^^ mask).toNat % 16, by omega, by omega,
    by omega, ?_⟩
  rw [codeFields_eq, BitVec.ofNat_toNat, BitVec.setWidth_eq, BitVec.xor_assoc, BitVec.xor_self, BitVec.xor_zero]

/-- Law E compands the value of a code back to its fields. -/
theorem encodeE_value {s e mantissa m : Nat} (hs : s < 2) (he : e < 8) (hm : mantissa < 16)
    (magnitude : m = if e = 0 then 2 * mantissa + 1 else (2 * mantissa + 33) * 2 ^ (e - 1)) :
    encodeE (if s = 1 then (m : Int) * 8 else -(m : Int) * 8) = BitVec.ofNat 8 (codeFields s e mantissa) ^^^ 0x55 := by
  have positive : 0 < m := by
    rw [magnitude]; split
    · omega
    · exact Nat.mul_pos (by omega) (Nat.two_pow_pos _)
  have bounds : m ≤ 4095 ∧ (e = 0 → m < 32 ∧ m / 2 = mantissa) ∧
      (1 ≤ e → 2 ^ (e + 4) ≤ m ∧ m < 2 ^ (e + 5) ∧ m / 2 ^ e % 16 = mantissa) := by
    subst magnitude
    interval_cases e <;> norm_num <;> omega
  obtain ⟨limit, linear, segment⟩ := bounds
  have sign : (if 0 ≤ (if s = 1 then (m : Int) * 8 else -(m : Int) * 8) then 1 else 0) = s := by
    split <;> split <;> omega
  have clipped : m = min ((if s = 1 then (m : Int) * 8 else -(m : Int) * 8) / 8).natAbs 4095 := by
    split <;> omega
  by_cases first : e = 0
  · obtain ⟨small, half⟩ := linear first
    rw [encodeE_of_lt clipped small, sign, half, first]
  · obtain ⟨low, high, rest⟩ := segment (by omega)
    rw [encodeE_of_segment clipped (by omega) low high, sign, rest]

/-- Law B compands the value of a code back to its fields, but for the second zero. -/
theorem encodeB_value {s e mantissa m : Nat} (hs : s < 2) (he : e < 8) (hm : mantissa < 16)
    (magnitude : m = (2 * mantissa + 33) * 2 ^ e - 33) (not_zero : s = 1 → 0 < m) :
    encodeB (if s = 1 then -(m : Int) * 4 else (m : Int) * 4) = ~~~(BitVec.ofNat 8 (codeFields s e mantissa)) := by
  have bounds : m ≤ 8158 ∧ 2 ^ (e + 5) ≤ m + 33 ∧ m + 33 < 2 ^ (e + 6) ∧ (m + 33) / 2 ^ (e + 1) % 16 = mantissa := by
    subst magnitude
    interval_cases e <;> norm_num <;> omega
  obtain ⟨limit, low, high, rest⟩ := bounds
  have sign : (if 0 ≤ (if s = 1 then -(m : Int) * 4 else (m : Int) * 4) then 0 else 1) = s := by
    split <;> split <;> omega
  have clipped : m + 33 = min ((if s = 1 then -(m : Int) * 4 else (m : Int) * 4) / 4).natAbs 8158 + 33 := by
    split <;> omega
  rw [encodeB_of_segment clipped low high, sign, rest]

/-- Expanding and companding give a code back, but for law B's second zero. -/
theorem compand_expand (law : Law) (code : Byte) (not_zero : ¬(law = .b ∧ code = 0x7F)) :
    law.compand (law.expand code) = code := by
  cases law with
  | e =>
    obtain ⟨s, e, mantissa, hs, he, hm, rfl⟩ := exists_codeFields 0x55 code
    show encodeE (decodeE _) = _
    rw [decodeE_codeFields hs he hm rfl, encodeE_value hs he hm rfl]
  | b =>
    obtain ⟨s, e, mantissa, hs, he, hm, hcode⟩ := exists_codeFields (BitVec.allOnes 8) code
    rw [BitVec.xor_allOnes] at hcode
    subst hcode
    show encodeB (decodeB _) = _
    rw [decodeB_codeFields hs he hm rfl, encodeB_value hs he hm rfl]
    rintro rfl
    by_contra zero
    have fields : e = 0 ∧ mantissa = 0 := by
      interval_cases e <;> omega
    obtain ⟨rfl, rfl⟩ := fields
    exact not_zero ⟨rfl, rfl⟩

/-- A negative sample has a magnitude in law B that is not the least. -/
theorem encodeB_ne (x : Int) : encodeB x ≠ 0x7F := by
  obtain ⟨n, hn⟩ : ∃ n, n = min (x / 4).natAbs 8158 + 33 := ⟨_, rfl⟩
  obtain ⟨e, low, high⟩ : ∃ e, 2 ^ (e + 5) ≤ n ∧ n < 2 ^ (e + 6) := by
    have segment : 5 ≤ n.log2 := (Nat.le_log2 (by omega)).2 (by omega)
    refine ⟨n.log2 - 5, ?_, ?_⟩
    · rw [show n.log2 - 5 + 5 = n.log2 by omega]; exact Nat.log2_self_le (by omega)
    · rw [show n.log2 - 5 + 6 = n.log2 + 1 by omega]; exact Nat.lt_log2_self
  have last := segmentB_le hn low
  rw [encodeB_of_segment hn low high]
  intro second_zero
  have code : BitVec.ofNat 8 (codeFields (if 0 ≤ x then 0 else 1) e (n / 2 ^ (e + 1) % 16)) = 0x80 := by
    rw [← BitVec.not_not (b := BitVec.ofNat 8 _), second_zero]; decide
  have number := congrArg BitVec.toNat code
  rw [toNat_ofNat_codeFields (by split <;> omega) (by omega) (by omega)] at number
  have parts : ¬0 ≤ x ∧ e = 0 ∧ n / 2 ^ (e + 1) % 16 = 0 := by
    have small : n / 2 ^ (e + 1) % 16 < 16 := Nat.mod_lt _ (by omega)
    unfold codeFields at number
    generalize n / 2 ^ (e + 1) % 16 = mantissa at number small ⊢
    change _ = 128 at number
    split at number <;> omega
  obtain ⟨negative, rfl, mantissa⟩ := parts
  norm_num at low high mantissa
  omega

/-- Settles O50. -/
theorem compandingIsStable : Obligations.CompandingIsStable := by
  refine ⟨compand_expand, fun x _ => encodeB_ne x, fun law x _ => compand_expand law _ ?_⟩
  rintro ⟨rfl, second_zero⟩
  exact encodeB_ne x second_zero

end Sys2Proof.Machine

/-! A frame decoded and encoded sample by sample (6.6 to 6.8). -/

namespace Sys2Proof.Machine

/-! ## Decoding, sample by sample (R120, R121) -/

/-- `count` samples by their numbers: each the predictor before the next, a saturated reconstruction that may clip. -/
def retraced (prior raw : Nat → Int) (count : Nat) : Decoded :=
  { samples := (List.range count).map fun i => prior (i + 1), predictor := prior count,
    clips := (List.range count).countP fun i => outOfRange (raw i) }

/-- A run of samples, then another whose numbers go on from it. -/
theorem retraced_add (prior raw : Nat → Int) (a b : Nat) :
    retraced prior raw (a + b) =
      { samples := (retraced prior raw a).samples ++ (retraced (fun i => prior (a + i)) (fun i => raw (a + i)) b).samples,
        predictor := (retraced (fun i => prior (a + i)) (fun i => raw (a + i)) b).predictor,
        clips := (retraced prior raw a).clips + (retraced (fun i => prior (a + i)) (fun i => raw (a + i)) b).clips } := by
  simp only [retraced, List.range_add, List.map_append, List.map_map, List.countP_append, List.countP_map]
  rfl

/-- The codes of a subblock, each with its own step, decoded. -/
theorem decodeCodes_eq_retraced {step : Nat} {prior raw : Nat → Int} {prev : Sample} {codes : List Code}
    (start : prior 0 = prev) (next : ∀ i, prior (i + 1) = saturate (raw i))
    (each : ∀ i c, codes[i]? = some c → raw i = reconstruction step (prior i) c) :
    decodeCodes step prev codes = retraced prior raw codes.length := by
  induction codes generalizing prior raw prev with
  | nil => subst start; rfl
  | cons c cs ih =>
    have first : raw 0 = reconstruction step prev c := by rw [← start]; exact each 0 c rfl
    have rest := ih (prior := fun i => prior (1 + i)) (raw := fun i => raw (1 + i)) (prev := saturate (raw 0)) (next 0)
      (fun i => next (1 + i)) fun i d value => each (1 + i) d (by rw [Nat.add_comm, List.getElem?_cons_succ]; exact value)
    rw [List.length_cons, Nat.add_comm, retraced_add, ← rest, first]
    simp [decodeCodes, retraced, next 0, first, clipOf_eq_ite]

/-- The codes of several subblocks decoded: each code with the step of its subblock. -/
theorem decodeSubblocks_eq_retraced {table : Vector Nat 48} {prior raw : Nat → Int} {prev : Sample} {steps : List (Fin 48)}
    {codes : List Code} (length : codes.length = 40 * steps.length) (start : prior 0 = prev)
    (next : ∀ i, prior (i + 1) = saturate (raw i))
    (each : ∀ (i : Nat) (c : Code) (k : Fin 48), codes[i]? = some c → steps[i / 40]? = some k →
      raw i = reconstruction table[k] (prior i) c) :
    decodeSubblocks table prev steps codes = retraced prior raw codes.length := by
  induction steps generalizing prior raw prev codes with
  | nil =>
    obtain rfl : codes = [] := List.length_eq_zero_iff.1 (by simpa using length)
    subst start; rfl
  | cons k steps ih =>
    simp only [List.length_cons] at length
    have taken : (codes.take 40).length = 40 := by rw [List.length_take]; omega
    have here : decodeCodes table[k] prev (codes.take 40) = retraced prior raw 40 := by
      rw [decodeCodes_eq_retraced (codes := codes.take 40) start next fun i c value => ?_, taken]
      obtain ⟨below, _⟩ := List.getElem?_eq_some_iff.1 value
      rw [taken] at below
      rw [List.getElem?_take_of_lt below] at value
      exact each i c k value (by rw [Nat.div_eq_of_lt below]; rfl)
    have rest : decodeSubblocks table (prior 40) steps (codes.drop 40) =
        retraced (fun i => prior (40 + i)) (fun i => raw (40 + i)) (codes.drop 40).length := by
      refine ih (prior := fun i => prior (40 + i)) (raw := fun i => raw (40 + i)) (by rw [List.length_drop]; omega) rfl
        (fun i => next (40 + i)) fun i c k' value step => each (40 + i) c k' (by rwa [List.getElem?_drop] at value) ?_
      rw [Nat.add_div_left i (by omega : 0 < 40), List.getElem?_cons_succ]
      exact step
    have total : codes.length = 40 + (codes.drop 40).length := by rw [List.length_drop]; omega
    simp only [decodeSubblocks, here]
    rw [total, retraced_add, ← rest]
    rfl

/-- The prediction, 15/16 of the predictor rounded down, as a shift. -/
theorem prediction_eq (prev : Int) : prediction prev = (15 * prev) >>> 4 :=
  ((Int.shiftRight_natCast_right (15 * prev) 4).trans (Int.shiftRight_eq_div_pow (15 * prev) 4)).symm

/-- The reconstruction as the manual writes it. -/
theorem reconstruction_eq (step : Nat) (prev : Int) (c : Code) :
    reconstruction step prev c =
      (15 * prev) >>> 4 + (if c.neg then -1 else 1) * (((2 * c.mag + 1) * step) >>> 1 : Nat) := by
  rw [reconstruction, prediction_eq, Nat.shiftRight_eq_div_pow]
  cases c.neg <;> simp [sub_eq_add_neg]

/-! ## What a DECODE run makes (R122 to R124) -/

/-- Settles O47. -/
theorem decodeRunsBySource : Obligations.DecodeRunsBySource := by
  refine ⟨fun table prev f d prior raw wellFormed hd start next each => ?_, fun r => ⟨fun zero => ?_, fun f work => ?_,
    fun k f d faded work hd hfaded => ?_⟩⟩
  · have decoded : d = retraced prior raw 160 := by
      rw [hd, ← wellFormed.codes]
      exact decodeSubblocks_eq_retraced (by rw [wellFormed.codes, wellFormed.steps]) start next
        fun i c k value step => (each i c k value step).trans (reconstruction_eq _ _ _).symm
    rw [decoded]
    exact ⟨fun i hi => by simp [retraced, hi], by simp [retraced], rfl, rfl⟩
  · simp only [Run.decode, zero]
    rfl
  · simp only [Run.decode, work, true_and]
    intro wellFormed
    rw [List.length_map, scale_length, decodeFrame_length _ _ wellFormed]
  · subst hd hfaded
    simp only [Run.decode, work, true_and]
    intro wellFormed
    rw [List.length_map, scale_length, scale_length, decodeFrame_length _ _ wellFormed]

/-! ## Encoding, sample by sample (R125 to R128) -/

/-- The greatest magnitude, by what bounds it. -/
theorem peak_le_iff (xs : List Sample) (t : Nat) : peak xs ≤ t ↔ ∀ x ∈ xs, x.natAbs ≤ t := by
  have fold (acc : Nat) : xs.foldl (fun m x => max m x.natAbs) acc ≤ t ↔ acc ≤ t ∧ ∀ x ∈ xs, x.natAbs ≤ t := by
    induction xs generalizing acc with
    | nil => simp
    | cons x xs ih =>
      rw [List.foldl_cons, ih, List.forall_mem_cons, Nat.max_le, and_assoc]
  rw [peak, fold]
  simp

theorem peak_eq_of {xs : List Sample} {p : Nat} (bound : ∀ x ∈ xs, x.natAbs ≤ p) (reached : ∃ x ∈ xs, x.natAbs = p) :
    peak xs = p := by
  obtain ⟨x, hx, rfl⟩ := reached
  exact le_antisymm ((peak_le_iff _ _).2 bound) ((peak_le_iff _ _).1 le_rfl x hx)

/-- The codes of a subblock: each quantises its sample against the predictor before it. -/
theorem encodeSamples_codes {step levels : Nat} {prior : Nat → Int} {prev : Sample} {xs : List Sample}
    (start : prior 0 = prev)
    (next : ∀ i c, (encodeSamples step levels prev xs).codes[i]? = some c →
      prior (i + 1) = saturate (reconstruction step (prior i) c)) {i : Nat} {x : Sample} (value : xs[i]? = some x) :
    (encodeSamples step levels prev xs).codes[i]? = some (quantise step levels (prior i) x) := by
  induction xs generalizing prior prev i with
  | nil => simp at value
  | cons y ys ih =>
    subst start
    have first := next 0 (quantise step levels (prior 0) y) rfl
    cases i with
    | zero =>
      obtain rfl : y = x := by simpa using value
      rfl
    | succ i =>
      exact ih (prior := fun j => prior (j + 1)) first (fun j c code => next (j + 1) c code) (by simpa using value)

/-- The predictor after a subblock. -/
theorem encodeSamples_predictor_eq {step levels : Nat} {prior : Nat → Int} {prev : Sample} {xs : List Sample}
    (start : prior 0 = prev)
    (next : ∀ i c, (encodeSamples step levels prev xs).codes[i]? = some c →
      prior (i + 1) = saturate (reconstruction step (prior i) c)) :
    (encodeSamples step levels prev xs).predictor = prior xs.length := by
  induction xs generalizing prior prev with
  | nil => exact start.symm
  | cons y ys ih =>
    subst start
    have first := next 0 (quantise step levels (prior 0) y) rfl
    exact ih (prior := fun j => prior (j + 1)) first fun j c code => next (j + 1) c code

section Subblocks

variable {table : Vector Nat 48} {mode : Mode}

/-- The first subblock of an encoding, with the step its peak chooses. -/
def encodeBlock (table : Vector Nat 48) (mode : Mode) (prev : Sample) (xs : List Sample) : Encoded :=
  encodeSamples table[chooseStep table mode.levels (peak (xs.take 40))] mode.levels prev (xs.take 40)

theorem encodeSubblocks_succ (count : Nat) (prev : Sample) (xs : List Sample) :
    encodeSubblocks table mode (count + 1) prev xs =
      { steps := chooseStep table mode.levels (peak (xs.take 40)) ::
          (encodeSubblocks table mode count (encodeBlock table mode prev xs).predictor (xs.drop 40)).steps,
        codes := (encodeBlock table mode prev xs).codes ++
          (encodeSubblocks table mode count (encodeBlock table mode prev xs).predictor (xs.drop 40)).codes,
        predictor := (encodeSubblocks table mode count (encodeBlock table mode prev xs).predictor (xs.drop 40)).predictor,
        clips := (encodeBlock table mode prev xs).clips +
          (encodeSubblocks table mode count (encodeBlock table mode prev xs).predictor (xs.drop 40)).clips } :=
  rfl

theorem encodeBlock_length (prev : Sample) {xs : List Sample} (enough : 40 ≤ xs.length) :
    (encodeBlock table mode prev xs).codes.length = 40 := by
  rw [encodeBlock, encodeSamples_length, List.length_take, min_eq_left enough]

theorem encodeSubblocks_lengths (count : Nat) (prev : Sample) (xs : List Sample) (length : xs.length = 40 * count) :
    (encodeSubblocks table mode count prev xs).steps.length = count ∧
      (encodeSubblocks table mode count prev xs).codes.length = 40 * count := by
  induction count generalizing prev xs with
  | zero => exact ⟨rfl, rfl⟩
  | succ count ih =>
    obtain ⟨steps, codes⟩ := ih (encodeBlock table mode prev xs).predictor (xs.drop 40) (by rw [List.length_drop]; omega)
    rw [encodeSubblocks_succ, List.length_cons, List.length_append, steps, codes, encodeBlock_length prev (by omega)]
    exact ⟨rfl, by omega⟩

/-- Each subblock takes the step index that its own peak chooses. -/
theorem encodeSubblocks_steps {count : Nat} {prev : Sample} {xs : List Sample} {block : Nat} (within : block < count) :
    (encodeSubblocks table mode count prev xs).steps[block]? =
      some (chooseStep table mode.levels (peak ((xs.drop (40 * block)).take 40))) := by
  induction count generalizing prev xs block with
  | zero => omega
  | succ count ih =>
    cases block with
    | zero => rfl
    | succ block =>
      rw [encodeSubblocks_succ, List.getElem?_cons_succ, ih (by omega), List.drop_drop, Nat.mul_succ, Nat.add_comm 40]

/-- Decoding the subblocks of an encoding retraces it. -/
theorem decodeSubblocks_encodeSubblocks (count : Nat) (prev : Sample) (xs : List Sample) (length : xs.length = 40 * count) :
    (decodeSubblocks table prev (encodeSubblocks table mode count prev xs).steps
        (encodeSubblocks table mode count prev xs).codes).predictor =
        (encodeSubblocks table mode count prev xs).predictor ∧
      (decodeSubblocks table prev (encodeSubblocks table mode count prev xs).steps
        (encodeSubblocks table mode count prev xs).codes).clips =
        (encodeSubblocks table mode count prev xs).clips := by
  induction count generalizing prev xs with
  | zero => exact ⟨rfl, rfl⟩
  | succ count ih =>
    have block : (encodeBlock table mode prev xs).codes.length = 40 := encodeBlock_length prev (by omega)
    have here : _ ∧ _ := decodeCodes_encodeSamples table[chooseStep table mode.levels (peak (xs.take 40))]
      mode.levels prev (xs.take 40)
    rw [← encodeBlock] at here
    obtain ⟨predictor, clips⟩ := here
    obtain ⟨restPredictor, restClips⟩ := ih (encodeBlock table mode prev xs).predictor (xs.drop 40)
      (by rw [List.length_drop]; omega)
    simp only [encodeSubblocks_succ, decodeSubblocks, List.take_left' block, List.drop_left' block, predictor, clips,
      restPredictor, restClips, and_self]

/-- Every code of an encoding: its sample quantised with the step of its subblock. -/
theorem encodeSubblocks_codes {count : Nat} {prior : Nat → Int} {prev : Sample} {xs : List Sample}
    (length : xs.length = 40 * count) (start : prior 0 = prev)
    (next : ∀ (i : Nat) (c : Code) (k : Fin 48), (encodeSubblocks table mode count prev xs).codes[i]? = some c →
      (encodeSubblocks table mode count prev xs).steps[i / 40]? = some k →
      prior (i + 1) = saturate (reconstruction table[k] (prior i) c))
    {i : Nat} {x : Sample} {k : Fin 48} (value : xs[i]? = some x)
    (step : (encodeSubblocks table mode count prev xs).steps[i / 40]? = some k) :
    (encodeSubblocks table mode count prev xs).codes[i]? = some (quantise table[k] mode.levels (prior i) x) := by
  induction count generalizing prior prev xs i with
  | zero =>
    obtain rfl : xs = [] := List.length_eq_zero_iff.1 (by omega)
    simp at value
  | succ count ih =>
    have block : (encodeBlock table mode prev xs).codes.length = 40 := encodeBlock_length prev (by omega)
    rw [encodeSubblocks_succ] at next step ⊢
    dsimp only at next step ⊢
    have nextHere (j : Nat) (c : Code) (code : (encodeBlock table mode prev xs).codes[j]? = some c) :
        prior (j + 1) =
          saturate (reconstruction table[chooseStep table mode.levels (peak (xs.take 40))] (prior j) c) := by
      obtain ⟨below, _⟩ := List.getElem?_eq_some_iff.1 code
      rw [block] at below
      exact next j c _ (by rw [List.getElem?_append_left (by omega)]; exact code) (by rw [Nat.div_eq_of_lt below]; rfl)
    by_cases first : i < 40
    · rw [Nat.div_eq_of_lt first] at step
      obtain rfl : chooseStep table mode.levels (peak (xs.take 40)) = k := by simpa using step
      rw [List.getElem?_append_left (by omega)]
      exact encodeSamples_codes start nextHere (by rw [List.getElem?_take_of_lt first]; exact value)
    · obtain ⟨j, rfl⟩ : ∃ j, i = 40 + j := ⟨i - 40, by omega⟩
      have predictor : (encodeBlock table mode prev xs).predictor = prior 40 := by
        have after := encodeSamples_predictor_eq start nextHere
        rwa [List.length_take, min_eq_left (by omega)] at after
      have behind (j : Nat) : (40 + j) / 40 = j / 40 + 1 := by omega
      rw [behind, List.getElem?_cons_succ] at step
      rw [List.getElem?_append_right (by omega), block, Nat.add_sub_cancel_left]
      refine ih (prior := fun i => prior (40 + i)) (by rw [List.length_drop]; omega) predictor.symm
        (fun m c k' code at_step => next (40 + m) c k' ?_ ?_) (by rwa [List.getElem?_drop]) step
      · rw [List.getElem?_append_right (by omega), block, Nat.add_sub_cancel_left]
        exact code
      · rw [behind, List.getElem?_cons_succ]
        exact at_step

/-- Every magnitude of an encoding fits its mode. -/
theorem encodeSubblocks_magnitudes (count : Nat) (prev : Sample) (xs : List Sample) :
    ∀ c ∈ (encodeSubblocks table mode count prev xs).codes, c.mag < mode.levels := by
  induction count generalizing prev xs with
  | zero => simp [encodeSubblocks]
  | succ count ih =>
    intro c hc
    rw [encodeSubblocks_succ] at hc
    rcases List.mem_append.1 hc with here | rest
    · exact encodeSamples_magnitudes _ _ _ _ (Nat.two_pow_pos _) c here
    · exact ih _ _ c rest

end Subblocks

theorem encodeFrame_wellFormed (table : Vector Nat 48) (mode : Mode) (prev : Sample) {xs : List Sample}
    (length : xs.length = 160) : ((encodeFrame table mode prev xs).frame mode).WellFormed := by
  obtain ⟨steps, codes⟩ := encodeSubblocks_lengths (table := table) (mode := mode) 4 prev xs length
  exact ⟨steps, codes, encodeSubblocks_magnitudes 4 prev xs⟩

/-- Settles O53. -/
theorem decoderTracksEncoder : Obligations.DecoderTracksEncoder := by
  refine ⟨fun table mode prev xs e levels prior raw length he hlevels start next each => ?_,
    fun table mode prev xs length => ⟨encodeFrame_wellFormed table mode prev length,
      decodeSubblocks_encodeSubblocks 4 prev xs length⟩⟩
  have modeLevels : mode.levels = levels := by rw [hlevels]; cases mode <;> rfl
  have reconstructs (i : Nat) (c : Code) (k : Fin 48) (code : e.codes[i]? = some c) (step : e.steps[i / 40]? = some k) :
      raw i = reconstruction table[k] (prior i) c :=
    (each i c k code step).trans (reconstruction_eq _ _ _).symm
  obtain ⟨steps, codes⟩ : e.steps.length = 4 ∧ e.codes.length = 160 := by
    rw [he]; exact encodeSubblocks_lengths 4 prev xs length
  have decoded : decodeSubblocks table prev e.steps e.codes = retraced prior raw 160 := by
    rw [decodeSubblocks_eq_retraced (by rw [steps, codes]) start next reconstructs, codes]
  obtain ⟨predictor, clips⟩ : (decodeSubblocks table prev e.steps e.codes).predictor = e.predictor ∧
      (decodeSubblocks table prev e.steps e.codes).clips = e.clips := by
    rw [he]; exact decodeSubblocks_encodeSubblocks 4 prev xs length
  rw [decoded] at predictor clips
  refine ⟨steps, codes, fun block peak within bound reached => ?_, fun i x error k value step herror => ?_,
    predictor.symm, clips.symm⟩
  · have member (x : Int) : x ∈ (xs.drop (40 * block)).take 40 ↔ ∃ i, i < 40 ∧ xs[40 * block + i]? = some x := by
      simp [List.mem_iff_getElem?, List.getElem?_take, List.getElem?_drop]
    have greatest : Machine.peak ((xs.drop (40 * block)).take 40) = peak := by
      refine peak_eq_of (fun x hx => ?_) ?_
      · obtain ⟨i, below, value⟩ := (member x).1 hx
        exact bound i x below value
      · obtain ⟨i, x, below, value, magnitude⟩ := reached
        exact ⟨x, (member x).2 ⟨i, below, value⟩, magnitude⟩
    rw [he, ← modeLevels, ← greatest]
    exact encodeSubblocks_steps within
  · rw [herror, ← prediction_eq, ← modeLevels]
    rw [he] at step ⊢
    exact encodeSubblocks_codes length start
      (fun i c k code step => (next i).trans (congrArg saturate (reconstructs i c k (he ▸ code) (he ▸ step)))) value step

end Sys2Proof.Machine

/-! The speech payload, bit by bit (6.9, 11.2). -/

namespace Sys2Proof.Machine

/-! ## Numbers and bits -/

theorem bitsNat_cons (b : Bool) (l : List Bool) : bitsNat (b :: l) = b.toNat * 2 ^ l.length + bitsNat l := by
  have fold (l : List Bool) (acc : Nat) :
      l.foldl (fun acc b => 2 * acc + b.toNat) acc = acc * 2 ^ l.length + bitsNat l := by
    induction l generalizing acc with
    | nil => simp [bitsNat]
    | cons b l ih =>
      rw [bitsNat, List.foldl_cons, List.foldl_cons, ih, ih (2 * 0 + b.toNat), List.length_cons, Nat.pow_succ]
      ring
  rw [bitsNat, List.foldl_cons, fold]
  simp

/-- The bits of a number spell what its low `w` bits hold. -/
theorem bitsNat_natBits (w n : Nat) : bitsNat (natBits w n) = n % 2 ^ w := by
  induction w with
  | zero => simp [natBits, bitsNat, Nat.mod_one]
  | succ w ih => rw [natBits, bitsNat_cons, natBits_length, ih, Nat.toNat_testBit, Nat.mod_pow_succ]; ring

/-- What a run of bits spells, bit by bit. -/
theorem bitsNat_map_range (b : Nat → Bool) (w : Nat) :
    bitsNat ((List.range w).map b) = ((List.range w).map fun k => if b k then 2 ^ (w - 1 - k) else 0).sum := by
  induction w generalizing b with
  | zero => rfl
  | succ w ih =>
    have rest := ih fun k => b (k + 1)
    rw [List.range_succ_eq_map, List.map_cons, List.map_cons, List.map_map, List.map_map, List.sum_cons, bitsNat_cons]
    have powers : ((fun k => if b k then 2 ^ (w + 1 - 1 - k) else 0) ∘ Nat.succ) =
        fun k => if b (k + 1) then 2 ^ (w - 1 - k) else 0 := by
      funext k
      simp only [Function.comp_apply, Nat.succ_eq_add_one, Nat.add_sub_cancel, Nat.sub_sub, Nat.add_comm 1 k]
    rw [powers, ← rest, List.length_map, List.length_range]
    cases b 0 <;> simp <;> rfl

/-! ## Bytes and bits -/

theorem exists_eight {n : Nat} {bits : List Bool} (length : bits.length = n + 8) :
    ∃ b7 b6 b5 b4 b3 b2 b1 b0 rest, bits = b7 :: b6 :: b5 :: b4 :: b3 :: b2 :: b1 :: b0 :: rest ∧ rest.length = n :=
  match bits, length with
  | _ :: _ :: _ :: _ :: _ :: _ :: _ :: _ :: _, length => ⟨_, _, _, _, _, _, _, _, _, rfl, by simpa using length⟩

/-- Whole bytes of bits, sent, are those bits. -/
theorem bytesBits_bitsBytes {n : Nat} {bits : List Bool} (length : bits.length = 8 * n) :
    bytesBits (bitsBytes bits) = bits ∧ (bitsBytes bits).length = n := by
  induction n generalizing bits with
  | zero =>
    obtain rfl : bits = [] := List.length_eq_zero_iff.1 (by omega)
    exact ⟨rfl, rfl⟩
  | succ n ih =>
    obtain ⟨b7, b6, b5, b4, b3, b2, b1, b0, rest, rfl, restLength⟩ := exists_eight (n := 8 * n) (by omega)
    obtain ⟨restBits, count⟩ := ih restLength
    have one : ∀ b7 b6 b5 b4 b3 b2 b1 b0 : Bool,
        natBits 8 (byte (bitsNat [b7, b6, b5, b4, b3, b2, b1, b0])).toNat = [b7, b6, b5, b4, b3, b2, b1, b0] := by decide
    refine ⟨?_, congrArg (· + 1) count⟩
    rw [bitsBytes, bytesBits, List.flatMap_cons, one, ← bytesBits, restBits]
    rfl

/-- Bit `k` of a payload in the order of sending. -/
def sentBit (payload : List Byte) (k : Nat) : Bool :=
  (payload[k / 8]?.getD 0).getMsbD (k % 8)

/-- The bits before the check byte. -/
theorem bytesBits_dropLast_getElem? (payload : List Byte) {k : Nat} (h : k < 8 * (payload.length - 1)) :
    (bytesBits payload.dropLast)[k]? = some (sentBit payload k) := by
  have inside : k / 8 < payload.length - 1 := by omega
  have value : payload[k / 8]? = some payload[k / 8] := List.getElem?_eq_getElem (by omega)
  rw [bytesBits_getElem?, List.getElem?_dropLast, if_pos inside, sentBit, value]
  rfl

/-- A slice of them. -/
theorem bytesBits_slice (payload : List Byte) {a n : Nat} (h : a + n ≤ 8 * (payload.length - 1)) :
    ((bytesBits payload.dropLast).drop a).take n = (List.range n).map fun k => sentBit payload (a + k) := by
  refine List.ext_getElem? fun k => ?_
  by_cases below : k < n
  · rw [List.getElem?_take_of_lt below, List.getElem?_drop, bytesBits_dropLast_getElem? payload (by omega)]
    simp [below]
  · rw [List.getElem?_eq_none (by rw [List.length_take]; omega), List.getElem?_eq_none (by simpa using below)]

/-! ## A frame packed (R184) -/

/-- Bit `k` of piece `i`, the pieces all of one length. -/
theorem flatMap_getElem? {α β : Type} {n : Nat} {f : α → List β} (length : ∀ a, (f a).length = n) {l : List α} {i k : Nat}
    {a : α} (piece : l[i]? = some a) (hk : k < n) : (l.flatMap f)[n * i + k]? = (f a)[k]? := by
  induction l generalizing i with
  | nil => simp at piece
  | cons b l ih =>
    rw [List.flatMap_cons]
    cases i with
    | zero =>
      obtain rfl : b = a := by simpa using piece
      rw [Nat.mul_zero, Nat.zero_add, List.getElem?_append_left (by rw [length]; exact hk)]
    | succ i =>
      rw [Nat.mul_succ, List.getElem?_append_right (by rw [length]; omega), length,
        show n * i + n + k - n = n * i + k by omega]
      exact ih (by simpa using piece)

theorem Mode.width_pos (m : Mode) : 1 ≤ m.width := by
  cases m <;> decide

theorem Code.bits_length (m : Mode) (c : Code) : (c.bits m.width).length = m.width := by
  rw [Code.bits, List.length_cons, natBits_length, Nat.sub_add_cancel m.width_pos]

/-- The bits of a frame in the order of sending. -/
def Frame.bits (f : Frame) : List Bool :=
  f.steps.flatMap (fun i => natBits 6 i.val) ++ f.codes.flatMap (Code.bits f.mode.width)

theorem Frame.body_eq (f : Frame) : f.body = bitsBytes f.bits :=
  rfl

section Packed

variable {f : Frame} (wellFormed : f.WellFormed)
include wellFormed

theorem Frame.stepBits_length : (f.steps.flatMap fun i => natBits 6 i.val).length = 24 := by
  rw [length_flatMap_const (fun i : Fin 48 => natBits 6 i.val) (fun i => natBits_length 6 i.val), wellFormed.steps]

theorem Frame.codeBits_length : (f.codes.flatMap (Code.bits f.mode.width)).length = 160 * f.mode.width := by
  rw [length_flatMap_const _ (Code.bits_length f.mode), wellFormed.codes]

theorem Frame.bits_length : f.bits.length = 8 * (3 + 20 * f.mode.width) := by
  rw [Frame.bits, List.length_append, Frame.stepBits_length wellFormed, Frame.codeBits_length wellFormed]
  ring

theorem Frame.bytesBits_body : bytesBits f.body = f.bits ∧ f.body.length = 3 + 20 * f.mode.width := by
  rw [Frame.body_eq]
  exact bytesBits_bitsBytes (Frame.bits_length wellFormed)

theorem Frame.payload_length : f.payload.length = f.mode.payloadLength := by
  rw [Frame.payload, List.length_append, (Frame.bytesBits_body wellFormed).2, List.length_singleton, Mode.payloadLength]
  omega

/-- A bit of the frame is that bit of its payload. -/
theorem Frame.sentBit_payload {k : Nat} {b : Bool} (bit : f.bits[k]? = some b) : sentBit f.payload k = b := by
  obtain ⟨bits, length⟩ := Frame.bytesBits_body wellFormed
  have front : f.payload.dropLast = f.body := List.dropLast_concat
  have below : k < 8 * f.body.length := by
    obtain ⟨below, _⟩ := List.getElem?_eq_some_iff.1 bit
    rwa [Frame.bits_length wellFormed, ← length] at below
  have sent := bytesBits_dropLast_getElem? f.payload (k := k) (by rw [Frame.payload]; simpa using below)
  rw [front, bits, bit] at sent
  exact (Option.some.inj sent).symm

theorem Frame.stepBit {i : Nat} {step : Fin 48} (index : f.steps[i]? = some step) {k : Nat} (hk : k < 6) :
    sentBit f.payload (6 * i + k) = step.val.testBit (5 - k) := by
  refine Frame.sentBit_payload wellFormed ?_
  obtain ⟨below, _⟩ := List.getElem?_eq_some_iff.1 index
  rw [wellFormed.steps] at below
  rw [Frame.bits, List.getElem?_append_left (by rw [Frame.stepBits_length wellFormed]; omega),
    flatMap_getElem? (fun i : Fin 48 => natBits_length 6 i.val) index hk, natBits_getElem?, if_pos hk]

theorem Frame.codeBit {j : Nat} {c : Code} (code : f.codes[j]? = some c) {k : Nat} (hk : k < f.mode.width) {b : Bool}
    (bit : (c.bits f.mode.width)[k]? = some b) : sentBit f.payload (24 + f.mode.width * j + k) = b := by
  refine Frame.sentBit_payload wellFormed ?_
  rw [Frame.bits, List.getElem?_append_right (by rw [Frame.stepBits_length wellFormed]; omega),
    Frame.stepBits_length wellFormed, Nat.add_assoc, Nat.add_sub_cancel_left,
    flatMap_getElem? (Code.bits_length f.mode) code hk, bit]

end Packed

/-! ## A payload read -/

theorem clampStep_val (n : Nat) : (clampStep n).val = min n 47 := by
  show min n 47 % 48 = min n 47
  omega

theorem readSteps_flatMap (steps : List (Fin 48)) :
    readSteps steps.length (steps.flatMap fun i => natBits 6 i.val) = steps := by
  induction steps with
  | nil => rfl
  | cons i steps ih =>
    have index : clampStep (bitsNat (natBits 6 i.val)) = i := by
      have below := i.isLt
      apply Fin.ext
      rw [clampStep_val, bitsNat_natBits]
      omega
    rw [List.flatMap_cons, List.length_cons, readSteps, List.take_left' (natBits_length 6 _),
      List.drop_left' (natBits_length 6 _), ih, index]

theorem readCodes_flatMap (mode : Mode) (codes : List Code) (fits : ∀ c ∈ codes, c.mag < mode.levels) :
    readCodes mode.width codes.length (codes.flatMap (Code.bits mode.width)) = codes := by
  induction codes with
  | nil => rfl
  | cons c codes ih =>
    have magnitude : bitsNat (natBits (mode.width - 1) c.mag) = c.mag := by
      rw [bitsNat_natBits]
      exact Nat.mod_eq_of_lt (fits c List.mem_cons_self)
    rw [List.flatMap_cons, List.length_cons, readCodes, List.take_left' (Code.bits_length mode c),
      List.drop_left' (Code.bits_length mode c), ih fun x hx => fits x (List.mem_cons_of_mem _ hx)]
    simp [Code.bits, magnitude]

/-- What is packed is unpacked. -/
theorem unpackFrame_payload {f : Frame} (wellFormed : f.WellFormed) : unpackFrame f.mode f.payload = f := by
  have front : f.payload.dropLast = f.body := List.dropLast_concat
  have steps := readSteps_flatMap f.steps
  have codes := readCodes_flatMap f.mode f.codes wellFormed.magnitudes
  rw [wellFormed.steps] at steps
  rw [wellFormed.codes] at codes
  rw [unpackFrame, front, (Frame.bytesBits_body wellFormed).1, Frame.bits,
    List.take_left' (Frame.stepBits_length wellFormed), List.drop_left' (Frame.stepBits_length wellFormed), steps, codes]

theorem Frame.payload_check (f : Frame) : f.payload.getLast? = some (crc8 f.payload.dropLast) := by
  rw [Frame.payload, List.dropLast_concat, List.getLast?_concat]

section Unpacked

variable {mode : Mode} {payload : List Byte} (length : payload.length = mode.payloadLength)
include length

/-- A step index read from its six bits. -/
theorem unpackFrame_step {i : Nat} (hi : i < 4) :
    (unpackFrame mode payload).steps[i]?.map Fin.val =
      some (min ((List.range 6).map fun k => if sentBit payload (6 * i + k) then 2 ^ (5 - k) else 0).sum 47) := by
  have slice : ((((bytesBits payload.dropLast).take 24).drop (6 * i)).take 6) =
      (List.range 6).map fun k => sentBit payload (6 * i + k) := by
    rw [List.drop_take, List.take_take, min_eq_left (by omega : 6 ≤ 24 - 6 * i)]
    exact bytesBits_slice payload (by rw [length, Mode.payloadLength]; omega)
  rw [unpackFrame, readSteps_getElem? 4 _ i hi, slice, bitsNat_map_range, Option.map_some, clampStep_val]

/-- A code read from its bits. -/
theorem unpackFrame_code {j : Nat} (hj : j < 160) :
    (unpackFrame mode payload).codes[j]? =
      some
        { neg := sentBit payload (24 + mode.width * j),
          mag := ((List.range (mode.width - 1)).map fun k =>
            if sentBit payload (24 + mode.width * j + 1 + k) then 2 ^ (mode.width - 2 - k) else 0).sum } := by
  have width := mode.width_pos
  have fits : 24 + mode.width * j + mode.width ≤ 8 * (payload.length - 1) := by
    have codes : mode.width * j + mode.width ≤ mode.width * 160 := by
      rw [← Nat.mul_succ]; exact Nat.mul_le_mul_left _ hj
    rw [length, Mode.payloadLength]
    omega
  have sign : (((bytesBits payload.dropLast).drop 24).drop (mode.width * j)).headD false =
      sentBit payload (24 + mode.width * j) := by
    rw [List.drop_drop, List.headD_eq_head?_getD, List.head?_drop, bytesBits_dropLast_getElem? payload (by omega)]
    rfl
  have slice : (((((bytesBits payload.dropLast).drop 24).drop (mode.width * j)).take mode.width).drop 1) =
      (List.range (mode.width - 1)).map fun k => sentBit payload (24 + mode.width * j + 1 + k) := by
    rw [List.drop_take, List.drop_drop, List.drop_drop]
    exact bytesBits_slice payload (by omega)
  rw [unpackFrame, readCodes_getElem? _ 160 _ j hj, sign, slice, bitsNat_map_range]
  rfl

end Unpacked

/-- The payload length of a mode in bytes. -/
theorem Mode.payloadLength_eq (m : Mode) : m.payloadLength = match m with | .two => 44 | .three => 64 | .four => 84 := by
  cases m <;> rfl

/-- Settles O55. -/
theorem speechPayloadRoundTrip : Obligations.SpeechPayloadRoundTrip := by
  intro bit hbit
  obtain rfl : bit = sentBit := funext fun payload => funext (hbit payload)
  refine ⟨fun f wellFormed => ⟨(Frame.payload_length wellFormed).trans f.mode.payloadLength_eq, f.payload_check,
      fun i step index k hk => Frame.stepBit wellFormed index hk, fun j c code => ⟨?_, fun k from_one hk => ?_⟩,
      unpackFrame_payload wellFormed, fun h named => ?_⟩,
    fun mode payload => ⟨unpackFrame_wellFormed mode payload, rfl, fun length => ?_⟩⟩
  · exact Frame.codeBit wellFormed code (k := 0) f.mode.width_pos rfl
  · refine Frame.codeBit wellFormed code hk ?_
    obtain ⟨k, rfl⟩ : ∃ n, k = n + 1 := ⟨k - 1, by omega⟩
    rw [Code.bits, List.getElem?_cons_succ, natBits_getElem?, if_pos (by omega),
      show f.mode.width - 1 - 1 - k = f.mode.width - 1 - (k + 1) by omega]
  · rw [classify_speech named (Frame.payload_length wellFormed) f.payload_check, unpackFrame_payload wellFormed]
  · replace length : payload.length = mode.payloadLength := length.trans mode.payloadLength_eq.symm
    refine ⟨?_, ?_⟩
    · rintro i value hi rfl
      exact unpackFrame_step length hi
    · rintro j magnitude hj rfl
      exact unpackFrame_code length hj

end Sys2Proof.Machine

/-! The outcomes of an ENCODE run and the units it builds (7.2 to 7.5). -/

namespace Sys2Proof.Machine

/-! ## Outcomes (R134 to R139) -/

theorem silentCycle_iff (threshold : Nat) (xs : List Sample) :
    silentCycle threshold xs = true ↔ ∀ x ∈ xs, x.natAbs ≤ threshold := by
  rw [silentCycle, decide_eq_true_iff, peak_le_iff]

section Outcome

variable {e : EncoderState}

theorem outcome_without_option (e : EncoderState) (silent : Bool) :
    e.outcome false silent = (.speech, { e with suppression := .speaking, silenceRun := 0, refresh := 0 }) :=
  rfl

theorem outcome_speaking_active (speaking : e.suppression = .speaking) :
    e.outcome true false = (.speech, { e with silenceRun := 0 }) := by
  simp [EncoderState.outcome, speaking]

theorem outcome_hangover (speaking : e.suppression = .speaking) (within : e.silenceRun + 1 < 4) :
    e.outcome true true = (.speech, { e with silenceRun := e.silenceRun + 1 }) := by
  have run : min 255 (e.silenceRun + 1) = e.silenceRun + 1 := min_eq_right (by omega)
  simp [EncoderState.outcome, speaking, run, Config.hangover, within]

theorem outcome_hangoverEnd (speaking : e.suppression = .speaking) (ended : 4 ≤ e.silenceRun + 1) :
    e.outcome true true =
      (.silence,
        { e with silenceRun := min 255 (e.silenceRun + 1), predictor := 0, suppression := .suppressing, refresh := 0 }) := by
  have past : ¬ min 255 (e.silenceRun + 1) < 4 := by omega
  simp only [EncoderState.outcome, speaking, if_true, Config.hangover, if_neg past]

theorem outcome_suppressing_active (suppressing : e.suppression = .suppressing) :
    e.outcome true false = (.speech, { e with suppression := .speaking, silenceRun := 0 }) := by
  simp [EncoderState.outcome, suppressing]

theorem outcome_between_refreshes (suppressing : e.suppression = .suppressing) (within : e.refresh + 1 < 24) :
    e.outcome true true = (.nothing, { e with refresh := e.refresh + 1 }) := by
  simp [EncoderState.outcome, suppressing, Config.refresh, within]

theorem outcome_refresh (suppressing : e.suppression = .suppressing) (due : 24 ≤ e.refresh + 1) :
    e.outcome true true = (.silence, { e with refresh := 0 }) := by
  simp [EncoderState.outcome, suppressing, Config.refresh, Nat.not_lt.2 due]

end Outcome

/-! ## Units (R140 to R143) -/

/-- The request byte of a unit of a context: the preference in its upper four bits. -/
theorem requestByte_eq (preference : Option Mode) :
    BitVec.ofNat 4 (preferenceNumber preference) ++ (0 : BitVec 4) =
      (match preference with | none => 0x00 | some .two => 0x20 | some .three => 0x30 | some .four => 0x40 : Byte) := by
  rcases preference with _ | mode
  · rfl
  · cases mode <;> rfl

/-- The kind and mode byte of a SPEECH unit. -/
theorem speechModeByte_eq (mode : Mode) :
    UnitKind.code .speech ++ BitVec.ofNat 4 mode.width =
      (match mode with | .two => 0x12 | .three => 0x13 | .four => 0x14 : Byte) := by
  cases mode <;> rfl

/-- The length byte of a SPEECH unit. -/
theorem speechLengthByte_eq (mode : Mode) :
    byte mode.payloadLength = (match mode with | .two => 44 | .three => 64 | .four => 84 : Byte) := by
  cases mode <;> rfl

/-- A unit of a context in bytes. -/
theorem buildUnit_header (w : EncodeWork) (kind : UnitKind) (mode : Nat) (seq : Byte) (payload : List Byte) :
    ∃ front : List Byte,
      front =
        [BitVec.ofNat 8 (w.label.toNat / 256), BitVec.ofNat 8 w.label.toNat, kind.code ++ BitVec.ofNat 4 mode, seq,
          BitVec.ofNat 4 (preferenceNumber w.preference) ++ (0 : BitVec 4), byte payload.length] ∧
      buildUnit (w.header kind mode seq) payload = front ++ [crc8 front] ++ payload := by
  refine ⟨_, rfl, ?_⟩
  simp [buildUnit, Header.unit, Header.front, EncodeWork.header, bytes16_eq]

/-! ## The results of a run, by its outcome -/

section Encode

variable {r : Run} {w : EncodeWork} {decision : Outcome × EncoderState}
  (decided : decision = r.codec.encoder.outcome w.suppression (silentCycle w.threshold r.gained.samples))
include decided

theorem Run.encode_of_nothing (nothing : decision.1 = .nothing) :
    r.encode w = { encoder := decision.2, unit := none, samples := r.gained.samples, clips := r.gained.clips } := by
  subst decided
  simp only [Run.encode, nothing]

theorem Run.encode_of_silence (silence : decision.1 = .silence) :
    r.encode w =
      { encoder := { decision.2 with seq := r.codec.encoder.seq + 1 },
        unit := some (.silence, buildUnit (w.header .silence 0 r.codec.encoder.seq) []),
        samples := r.gained.samples, clips := r.gained.clips } := by
  subst decided
  simp only [Run.encode, silence]

theorem Run.encode_of_speech (speech : decision.1 = .speech) {coded : Encoded}
    (hcoded : coded = encodeFrame r.step w.mode r.codec.encoder.predictor r.gained.samples) :
    r.encode w =
      { encoder := { decision.2 with predictor := coded.predictor, seq := r.codec.encoder.seq + 1 },
        unit := some
          (.speech, buildUnit (w.header .speech w.mode.width r.codec.encoder.seq) (coded.frame w.mode).payload),
        samples := r.gained.samples, clips := r.gained.clips + coded.clips } := by
  subst decided hcoded
  simp only [Run.encode, speech]

end Encode

/-- Settles O48: the outcomes row by row of 7.3's table, then the units in bytes. -/
theorem encodeOutcomesAndUnits : Obligations.EncodeOutcomesAndUnits := by
  refine ⟨⟨silentCycle_iff, fun e silent => ⟨outcome_without_option e silent,
    fun speaking => ⟨outcome_speaking_active speaking, outcome_hangover speaking, outcome_hangoverEnd speaking⟩,
    fun suppressing => ⟨outcome_suppressing_active suppressing, outcome_between_refreshes suppressing,
      outcome_refresh suppressing⟩⟩⟩, ?_⟩
  rintro r w e gained decision request rfl hgained decided hrequest
  change gained = r.gained at hgained
  subst hgained
  replace hrequest := hrequest.trans (requestByte_eq w.preference).symm
  subst hrequest
  refine ⟨r.encode_samples w, fun nothing => ?_, fun front silence hfront => ?_,
    fun front payload coded speech hcoded hpayload length hfront => ?_⟩
  · rw [Run.encode_of_nothing decided nothing]
    exact ⟨rfl, rfl, rfl⟩
  · rw [Run.encode_of_silence decided silence]
    obtain ⟨built, hbuilt, unit⟩ := buildUnit_header w .silence 0 r.codec.encoder.seq []
    have same : built = front := hbuilt.trans hfront.symm
    rw [unit, same, List.append_nil]
    exact ⟨rfl, rfl, rfl⟩
  · rw [Run.encode_of_speech decided speech hcoded]
    have payloadLength : payload.length = w.mode.payloadLength := by
      rw [hpayload, hcoded]
      exact Frame.payload_length (encodeFrame_wellFormed _ _ _ length)
    obtain ⟨built, hbuilt, unit⟩ := buildUnit_header w .speech w.mode.width r.codec.encoder.seq payload
    have same : built = front := by
      rw [payloadLength, speechModeByte_eq, speechLengthByte_eq] at hbuilt
      exact hbuilt.trans hfront.symm
    rw [← hpayload, unit, same]
    exact ⟨rfl, rfl, rfl⟩

end Sys2Proof.Machine
